-- ==== Sys2Proof/Word.lean ====
section
/-! DEFINITION. The widths of the EDHE's words: a register and a bus access move 32 bits (10_state.md R21),
the smallest memory element is 8 bits (R50), a binary32 value moves as its 32-bit pattern (00_scope.md R10). -/

namespace Sys2Proof

/-- A register, a command word, a bus access: 32 bits (R21, R100). -/
abbrev Word := BitVec 32

/-- One byte of a memory element (R50, R71). -/
abbrev Byte := BitVec 8

/-- A binary32 value, held as its bit pattern (R10). -/
abbrev F32 := BitVec 32

end Sys2Proof
end

