-- ==== Sys2Proof/Config.lean ====
section
/-! DEFINITION. What an implementation fixes (00_scope.md R5) and the values the spec leaves free
(93_implementation_defined.md U1, U2, U3, U5, U6, U8). -/

namespace Sys2Proof

/-- The eight memory spaces (10_state.md R50). -/
inductive SpaceId where
  | dot | errtab | pvlut | raster | eb | print | preview | tally
  deriving DecidableEq, Repr

namespace Config

/-- The implementation parameters of R5 that the source leaves open. They stand in State as data no step changes
(log 5), so that a statement about every state is a statement about every implementation. -/
structure Params where
  /-- `EB_MAXW`: columns of an error-buffer row. -/
  ebMaxW : Nat
  /-- `PB_MAXPIX`: pixels of one print buffer. -/
  pbMaxPix : Nat
  /-- `RASTER_MAX`: elements of the input raster space. -/
  rasterMax : Nat
  /-- `NLANES`: physical row processors; no rule reads it (42_band_dispatch.md R210). -/
  nLanes : Nat
  deriving DecidableEq, Repr

/-- The ranges R5 gives the parameters. -/
def Params.ok (p : Params) : Bool :=
  decide (1 ≤ p.ebMaxW) && decide (p.ebMaxW ≤ 65535) &&
  decide (1 ≤ p.pbMaxPix) && decide (p.pbMaxPix < 268435456) &&
  decide (1 ≤ p.rasterMax) && decide (p.rasterMax < 4294967296) &&
  decide (1 ≤ p.nLanes)

/-- DESIGN CHOICE (log 5), unsafe for a statement about `State.reset` alone: the parameters
95_test_vectors.md uses. R5 leaves them open; every other statement holds for every value. -/
def resetParams : Params := { ebMaxW := 64, pbMaxPix := 4096, rasterMax := 65536, nLanes := 1 }

/-- `NKERNELS` (R5): kernel indices are 0 to 16. -/
def nKernels : Nat := 17
/-- `KW` (R5, R131): weight slots of a kernel row. -/
def kernelWidth : Nat := 7
/-- `KHMAX` (R5): rows of an error-buffer bank. -/
def kernelHeightMax : Nat := 4
/-- `CMAX` (R5): greatest channel count. -/
def channelMax : Nat := 16
/-- `HYST_DEFAULT` (R5): the hysteresis, per mille, that replaces an illegal one (R137). -/
def hystDefault : Nat := 150

/-- Free value (log 6, 8, 11): byte `addr` of a space whose contents became unspecified at draw `n`
(U1, U2, U5, U6). -/
opaque freeByte (n : Nat) (id : SpaceId) (addr : Nat) : Byte

/-- Free value (log 10): what a MEMDATA read returns while BUSY (20_memory.md R80, U3). -/
opaque busyReadData (n : Nat) : Word

/-- Free value (log 9), the `NOISE_GEN` parameter of R5: the generator's answer for the pixel `(ch, y, x)` of
the command carried out at draw `n`, given the latched SEED (00_scope.md R17, U8). It is brought into the
draw's set where it is used. -/
opaque noiseGen (seed : Word) (n ch y x : Nat) : Nat

end Config
end Sys2Proof
end

