-- ==== Sys2Proof/Syntax.lean ====
section
/-! DEFINITION. The six commands (30_encoding.md R102): one constructor per row of spec/opcode_table.json. -/

namespace Sys2Proof

/-- A command a host writes to CMD. Operands of ROW: the logical channel `ch` and the output row `y` (R101). -/
inductive Instr where
  | nop
  | init
  | row (ch y : Nat)
  | band
  | endRun
  | clrerr
  deriving DecidableEq, Repr

end Sys2Proof
end

