-- ==== Sys2Proof/WellFormed.lean ====
section
/-! DEFINITION. Which command terms have an encoding: CH is 4 bits, Y is 16 bits (30_encoding.md R101, R106). -/

namespace Sys2Proof

/-- `ch` in 0..15 and `y` in 0..65535 (R106); every other command has no operand. -/
def Instr.wellFormed : Instr → Bool
  | .nop => true
  | .init => true
  | .row ch y => decide (ch < 16) && decide (y < 65536)
  | .band => true
  | .endRun => true
  | .clrerr => true

end Sys2Proof
end

