-- ==== Sys2Proof/Decode.lean ====
section
/-! DEFINITION. The command decoder (30_encoding.md R100 to R104), total on every word and rejecting by name,
and the encoder beside it. Decoding reads nothing but the word (R103). -/

namespace Sys2Proof

/-- Why a word is illegal (R104). Both raise IllegalCommand when the word is accepted. -/
inductive DecodeError where
  /-- OP in 0x06..0xFF. -/
  | reservedOpcode
  /-- A field named zero is not zero. -/
  | nonZeroField
  deriving DecidableEq, Repr

/-- `OP = w[31:24]` (R101). -/
def opField (w : Word) : Nat := (w.extractLsb' 24 8).toNat

/-- `CH = w[23:20]` (R101). -/
def chField (w : Word) : Nat := (w.extractLsb' 20 4).toNat

/-- `Y = w[15:0]` (R101). -/
def yField (w : Word) : Nat := (w.extractLsb' 0 16).toNat

/-- A format N word (R100): bits 23:0 must be zero. -/
def decodeN (w : Word) (i : Instr) : Except DecodeError Instr :=
  if w.extractLsb' 0 24 = 0#24 then .ok i else .error .nonZeroField

/-- A format W word (R100): bits 19:16 must be zero. -/
def decodeW (w : Word) : Except DecodeError Instr :=
  if w.extractLsb' 16 4 = 0#4 then .ok (.row (chField w) (yField w)) else .error .nonZeroField

/-- The decoder (R102, R103, R104). -/
def decode (w : Word) : Except DecodeError Instr :=
  if opField w = 0 then decodeN w .nop
  else if opField w = 1 then decodeN w .init
  else if opField w = 2 then decodeW w
  else if opField w = 3 then decodeN w .band
  else if opField w = 4 then decodeN w .endRun
  else if opField w = 5 then decodeN w .clrerr
  else .error .reservedOpcode

/-- A row of the opcode map (R102): mnemonic, match and mask. -/
structure OpRow where
  mnemonic : String
  pattern : Word
  mask : Word
  deriving DecidableEq, Repr

/-- The opcode map (R102). -/
def opRows : List OpRow :=
  [{ mnemonic := "NOP", pattern := 0x00000000#32, mask := 0xFFFFFFFF#32 },
   { mnemonic := "INIT", pattern := 0x01000000#32, mask := 0xFFFFFFFF#32 },
   { mnemonic := "ROW", pattern := 0x02000000#32, mask := 0xFF0F0000#32 },
   { mnemonic := "BAND", pattern := 0x03000000#32, mask := 0xFFFFFFFF#32 },
   { mnemonic := "END", pattern := 0x04000000#32, mask := 0xFFFFFFFF#32 },
   { mnemonic := "CLRERR", pattern := 0x05000000#32, mask := 0xFFFFFFFF#32 }]

/-- The mnemonics of the rows a word selects: `(w & mask) == match` (R102). -/
def matchingRows (w : Word) : List String :=
  (opRows.filter (fun r => decide (w &&& r.mask = r.pattern))).map OpRow.mnemonic

/-- The mnemonic of a command (R102). -/
def Instr.mnemonic : Instr → String
  | .nop => "NOP"
  | .init => "INIT"
  | .row _ _ => "ROW"
  | .band => "BAND"
  | .endRun => "END"
  | .clrerr => "CLRERR"

/-- The encoder: the word of R102 and R106 for each command. -/
def encode : Instr → Word
  | .nop => 0x00000000#32
  | .init => 0x01000000#32
  | .row ch y => 0x02#8 ++ BitVec.ofNat 4 ch ++ 0#4 ++ BitVec.ofNat 16 y
  | .band => 0x03000000#32
  | .endRun => 0x04000000#32
  | .clrerr => 0x05000000#32

/-- The instruction the decoder reads from an opcode-table row's bits `w`: a command is one 32-bit word that
moves whole (R100, R74), so the word is `w` itself. -/
def decodeTableWord (nbits w : Nat) : Option Instr :=
  if nbits ≤ 32 then
    match decode (BitVec.ofNat 32 (w % 2 ^ nbits)) with
    | .ok i => some i
    | .error _ => none
  else none

end Sys2Proof
end

