-- ==== Sys2Proof/Machine/State.lean ====
section
/-! DEFINITION. The state of the EDHE (10_state.md R20) as plain data, the reasons a step can stop, and the
state after reset (R60). The operations on it are in Machine/Ops.lean and the files beside it. -/

namespace Sys2Proof.Machine

/-- The errors of 60_exceptions.md R233. -/
inductive ErrCode where
  | invalidKernelIndex
  | incompatibleBitDepth
  | missingLookupTable
  | allocationError
  | bufferBoundsExceeded
  | illegalCommand
  | noActiveRun
  deriving DecidableEq, Repr

/-- The registers of the window (10_state.md R22), by name. -/
inductive Reg where
  | id | cmd | status | ctrl | irqEn | irqPend | config | hyst | dotLevels | inDim | outDim | inkOrd0 | inkOrd1
  | seed | lutCtl | dotSize | errSize | xStep | yStep | noise | runInfo | memSel | memAddr | memData
  deriving DecidableEq, Repr

/-- What happens next at the machine's boundary (log 1). An access carries the word offset `addr[7:2]` (R72, R261). -/
inductive Event where
  /-- The host writes `data` at word offset `addr`. -/
  | write (addr : BitVec 6) (data : Word)
  /-- The host reads at word offset `addr`. -/
  | read (addr : BitVec 6)
  /-- The engine has its turn: the command being carried out, if any, completes or raises (00_scope.md R16). -/
  | engine
  /-- One low pulse of `rst_n` (70_reset_and_hazards.md R260). -/
  | rstn
  deriving DecidableEq, Repr

/-- The eleven configuration registers INIT reads (40_catalog_and_run_control.md R134), each at its implemented
width (R27 to R33). CONFIG keeps its 32 bits; its reserved bits are written 0. -/
structure ConfigRegs where
  config : Word
  hyst : BitVec 16
  dotLevels : BitVec 9
  inDim : BitVec 24
  outDim : Word
  inkOrd0 : Word
  inkOrd1 : Word
  seed : Word
  lutCtl : BitVec 2
  dotSize : BitVec 17
  errSize : BitVec 21
  deriving DecidableEq, Repr

/-- The operating state (R41). `busy` keeps the READY bit at acceptance (R26), the accepted word, and the
configuration registers as they were at acceptance (R140; log 3). -/
inductive OpState where
  | idle
  | ready
  | busy (ready : Bool) (word : Word) (cfg : ConfigRegs)
  | error (code : ErrCode)
  deriving DecidableEq, Repr

/-- The latched run configuration (R45). `ink` is the sixteen 4-bit fields INK[0..15], INK[0] lowest (R31). -/
structure Run where
  k : BitVec 5
  kh : BitVec 3
  ks : BitVec 5
  w16 : Bool
  s16 : Bool
  m : BitVec 16
  nscl : BitVec 9
  h : BitVec 10
  nrs : BitVec 16
  nrf : BitVec 16
  serp : Bool
  par : Bool
  threads : BitVec 8
  c : BitVec 5
  dotLevels : BitVec 9
  ink : BitVec 64
  inw : BitVec 16
  inh : BitVec 8
  outw : BitVec 16
  outh : BitVec 16
  xstep : Word
  ystep : BitVec 24
  seed : Word
  deriving DecidableEq, Repr

/-- What the unlisted bytes of a space read as: one byte everywhere, or free values taken at draw `n` (log 6). -/
inductive Fill where
  | const (b : Byte)
  | free (n : Nat)
  deriving DecidableEq, Repr

/-- One memory space: the bytes that are listed, addresses strictly rising, over a fill. Byte `j` of element `i`
of a space whose elements have `w` bytes is at address `i * w + j`, low byte first (R71; log 7). -/
structure Space where
  fill : Fill
  cells : List Host.Cell
  deriving DecidableEq, Repr

/-- The eight memory spaces (R50). -/
structure Memory where
  dot : Space
  errtab : Space
  pvlut : Space
  raster : Space
  eb : Space
  print : Space
  preview : Space
  tally : Space
  deriving DecidableEq, Repr

/-- A task-local tally (R46): the non-zero counters, each under its index `k * 256 + d` (R58). -/
abbrev Tally := List (Nat × Word)

/-- A work unit: a channel and an output row (R18). -/
abbrev WorkUnit := Nat × Nat

/-- The working registers of a task and the scan sequencer (R46, R47). Their widths are bounds the rules show
(R7): x 16 bits (and -1 or OUTW after the last pixel, R163), b 1, avg and v8 24, Q 16. -/
structure TaskRegs where
  /-- The work units still to do after the current one: the position in the task's list. -/
  units : List WorkUnit
  ch : Nat
  y : Nat
  b : Nat
  x : Int
  step : Int
  avg : Nat
  v8 : Nat
  a : F32
  q : Nat
  dot : Byte
  tally : Tally
  deriving DecidableEq, Repr

/-- The whole state (R20) and the model's own fields `params`, `rdata`, `events`, `draws` (INVENTORY.md). -/
structure State where
  /-- The implementation parameters (00_scope.md R5; log 5). -/
  params : Config.Params
  /-- IRQEN (R39). -/
  irqEn : BitVec 3
  /-- IRQPEND (R39): bit 0 DONE, bit 1 ERRV, bit 2 HVIOL. -/
  irqPend : BitVec 3
  /-- The configuration registers, live. -/
  cfg : ConfigRegs
  /-- MEMSEL (R37). -/
  memSel : BitVec 3
  /-- MEMADDR (R37). -/
  memAddr : Word
  /-- The operating state (R41). -/
  op : OpState
  /-- The latched run (R45). -/
  run : Run
  /-- The memory spaces (R50). -/
  mem : Memory
  /-- The working registers of the task being run (R46); idle between commands (log 16). -/
  task : TaskRegs
  /-- The local tallies of the tasks that wait for the join (R207); empty between commands. -/
  finished : List Tally
  /-- The bus output `rdata` after the last read (R261; log 15). -/
  rdata : Word
  /-- What happens next at the boundary (log 1). -/
  events : List Event
  /-- Where the next free value is taken (log 14). -/
  draws : Nat
  deriving DecidableEq, Repr

/-- Why the machine can stop with a fault. -/
inductive Fault where
  /-- Raised by ROW and BAND in a state whose latched run does not fit the memory spaces, so that an engine
  access would name an element that does not exist (10_state.md R50, 41_row_halftone.md R186). No run from reset
  reaches such a state. Safe (log 13). -/
  | engineAccessOutsideSpace
  deriving DecidableEq, Repr

/-- Why the model can give no meaning. -/
inductive Refusal where
  /-- An instruction whose arm has no meaning yet. Safe. No arm uses it. -/
  | notModelled (mnemonic : String)
  deriving DecidableEq, Repr

/-- The configuration registers after reset (R22). -/
def ConfigRegs.reset : ConfigRegs where
  config := 0x01040000#32
  hyst := 150#16
  dotLevels := 0#9
  inDim := 0#24
  outDim := 0#32
  inkOrd0 := 0x76543210#32
  inkOrd1 := 0xFEDCBA98#32
  seed := 0#32
  lutCtl := 0#2
  dotSize := 0#17
  errSize := 0#21

/-- Every field of `run` is 0 after reset (R45, R60). -/
def Run.zero : Run where
  k := 0#5
  kh := 0#3
  ks := 0#5
  w16 := false
  s16 := false
  m := 0#16
  nscl := 0#9
  h := 0#10
  nrs := 0#16
  nrf := 0#16
  serp := false
  par := false
  threads := 0#8
  c := 0#5
  dotLevels := 0#9
  ink := 0#64
  inw := 0#16
  inh := 0#8
  outw := 0#16
  outh := 0#16
  xstep := 0#32
  ystep := 0#24
  seed := 0#32

/-- DESIGN CHOICE (log 16): what the working registers hold when no task exists (R264). -/
def TaskRegs.idle : TaskRegs where
  units := []
  ch := 0
  y := 0
  b := 0
  x := 0
  step := 1
  avg := 0
  v8 := 0
  a := 0#32
  q := 0
  dot := 0#8
  tally := []

/-- A space whose every element is unspecified (R60, U1), its free values taken at draw `n`. -/
def Space.unspecified (n : Nat) : Space := { fill := .free n, cells := [] }

/-- All eight spaces unspecified (R60). -/
def Memory.unspecified (n : Nat) : Memory where
  dot := .unspecified n
  errtab := .unspecified n
  pvlut := .unspecified n
  raster := .unspecified n
  eb := .unspecified n
  print := .unspecified n
  preview := .unspecified n
  tally := .unspecified n

/-- The machine after hardware reset (R22, R60, 70_reset_and_hazards.md R260). The model's own fields hold the
values logs 1, 5, 14 and 15 name. -/
def State.reset : State where
  params := Config.resetParams
  irqEn := 0#3
  irqPend := 0#3
  cfg := .reset
  memSel := 0#3
  memAddr := 0#32
  op := .idle
  run := .zero
  mem := .unspecified 0
  task := .idle
  finished := []
  rdata := 0#32
  events := []
  draws := 1

end Sys2Proof.Machine
end

