-- ==== Sys2Proof/Machine/Arith.lean ====
section
/-! DEFINITION. The arithmetic primitives of 00_scope.md (R10 to R13). A finite binary32 value is held exactly as an
integer count of the smallest subnormal, 2^-149, so every sum is exact before it is rounded. -/

namespace Sys2Proof.Machine

/-- Exponent field, bits 30:23 (R10). -/
def f32Exp (p : F32) : Nat := (p.extractLsb' 23 8).toNat

/-- Fraction field, bits 22:0 (R10). -/
def f32Frac (p : F32) : Nat := (p.extractLsb' 0 23).toNat

/-- Sign, bit 31 (R10). -/
def f32Neg (p : F32) : Bool := p.getLsbD 31

/-- Exponent 255 and a non-zero fraction (R10). -/
def f32IsNaN (p : F32) : Bool := decide (f32Exp p = 255) && decide (f32Frac p ≠ 0)

/-- Exponent 255 and fraction 0 (R10). -/
def f32IsInf (p : F32) : Bool := decide (f32Exp p = 255) && decide (f32Frac p = 0)

/-- `|val(p)|` of a finite pattern in units of 2^-149: subnormals are their fraction (R10). -/
def f32Mag (p : F32) : Nat :=
  if f32Exp p = 0 then f32Frac p else (2 ^ 23 + f32Frac p) * 2 ^ (f32Exp p - 1)

/-- `val(p)` of a finite pattern in units of 2^-149 (R10). -/
def f32Units (p : F32) : Int := if f32Neg p then -(f32Mag p : Int) else (f32Mag p : Int)

/-- The exponent and fraction bits of `n` units of 2^-149 rounded to nearest, ties to the even fraction (R11).
A carry out of the fraction runs into the exponent. Not yet limited to the finite range. -/
def f32RoundMag (n : Nat) : Nat :=
  if n < 2 ^ 24 then n
  else
    let k := n.log2 - 23
    let q := n / 2 ^ k
    let rem := n % 2 ^ k
    let up := if 2 ^ (k - 1) < rem ∨ (rem = 2 ^ (k - 1) ∧ q % 2 = 1) then 1 else 0
    k * 2 ^ 23 + q + up

/-- The nearest pattern to `n` units of 2^-149 under a sign; infinity beyond the largest finite value (R11). -/
def f32Round (neg : Bool) (n : Nat) : F32 :=
  BitVec.ofNat 32 ((if neg then 2 ^ 31 else 0) + min (f32RoundMag n) 0x7F800000)

/-- The canonical quiet NaN (R11). -/
def f32NaN : F32 := 0x7FC00000#32

/-- `fadd32` (R11). -/
def fadd32 (a b : F32) : F32 :=
  if f32IsNaN a ∨ f32IsNaN b then f32NaN
  else if f32IsInf a ∧ f32IsInf b ∧ f32Neg a ≠ f32Neg b then f32NaN
  else if f32IsInf a then a
  else if f32IsInf b then b
  else if f32Units a + f32Units b = 0 then
    if a = 0x80000000#32 ∧ b = 0x80000000#32 then 0x80000000#32 else 0#32
  else f32Round (decide (f32Units a + f32Units b < 0)) (f32Units a + f32Units b).natAbs

/-- `f32_fix8` (R12): the pattern of `n / 256`, exact for `|n| < 2^24`. -/
def f32Fix8 (n : Int) : F32 := f32Round (decide (n < 0)) (n.natAbs * 2 ^ 141)

/-- `quant` (R13): clamp to `[0, M]` and round to the nearest integer, half up; NaN gives 0. -/
def quant (a : F32) (M : Nat) : Nat :=
  if f32IsNaN a then 0
  else if f32Neg a then 0
  else if f32IsInf a then M
  else if M * 2 ^ 149 ≤ f32Mag a then M
  else (f32Mag a + 2 ^ 148) / 2 ^ 149

/-- `tdiv` (R7): division by a positive integer, truncated toward zero. -/
def tdiv (a : Int) (b : Nat) : Int := if 0 ≤ a then ((a.toNat / b : Nat) : Int) else -((((-a).toNat / b : Nat)) : Int)

end Sys2Proof.Machine
end

