-- ==== Sys2Proof/Machine/Flags.lean ====
section
/-! DEFINITION. The flags: STATUS (10_state.md R26, R41), IRQPEND and IRQEN (R39), the output `irq` (R40), the error
codes (60_exceptions.md R233). -/

namespace Sys2Proof.Machine

/-- The code of each error (R233): class in bits 7:4, number in the class in bits 3:0. -/
def ErrCode.code : ErrCode → BitVec 8
  | .invalidKernelIndex => 0x11#8
  | .incompatibleBitDepth => 0x12#8
  | .missingLookupTable => 0x13#8
  | .allocationError => 0x21#8
  | .bufferBoundsExceeded => 0x31#8
  | .illegalCommand => 0x41#8
  | .noActiveRun => 0x42#8

/-- IRQPEND.DONE (R39). -/
def doneBit : BitVec 3 := 1#3
/-- IRQPEND.ERRV (R39). -/
def errvBit : BitVec 3 := 2#3
/-- IRQPEND.HVIOL (R39). -/
def hviolBit : BitVec 3 := 4#3

/-- STATUS.BUSY (R26). -/
def State.busyFlag (s : State) : Bool :=
  match s.op with
  | .busy _ _ _ => true
  | _ => false

/-- STATUS.READY (R26): while BUSY it keeps the value it had at acceptance. -/
def State.readyFlag (s : State) : Bool :=
  match s.op with
  | .idle => false
  | .ready => true
  | .busy r _ _ => r
  | .error _ => false

/-- STATUS.ERR (R26). -/
def State.errFlag (s : State) : Bool :=
  match s.op with
  | .error _ => true
  | _ => false

/-- STATUS.ERRCODE (R26): 0 while ERR = 0. -/
def State.errCode (s : State) : BitVec 8 :=
  match s.op with
  | .error e => e.code
  | _ => 0#8

/-- STATUS as a word (R26): ERRCODE in 15:8, ERR bit 2, READY bit 1, BUSY bit 0, reserved bits 0. -/
def State.status (s : State) : Word :=
  0#16 ++ s.errCode ++ 0#5 ++ BitVec.ofBool s.errFlag ++ BitVec.ofBool s.readyFlag ++ BitVec.ofBool s.busyFlag

/-- The output `irq` (R40, R243): the OR of the enabled pending bits. -/
def State.irq (s : State) : Bool := decide (s.irqPend &&& s.irqEn ≠ 0#3)

end Sys2Proof.Machine
end

