-- ==== Sys2Proof/Machine/Memory.lean ====
section
/-! DEFINITION. The named operations over the memory spaces (10_state.md R50, 20_memory.md R70 to R72, R77): one
byte, one element, a whole space; and the canonical form they keep. -/

namespace Sys2Proof.Machine

/-- The space MEMSEL names (R37, R50); all eight values are defined (RS7). -/
def spaceOfSel (sel : BitVec 3) : SpaceId :=
  if sel = 0#3 then .dot
  else if sel = 1#3 then .errtab
  else if sel = 2#3 then .pvlut
  else if sel = 3#3 then .raster
  else if sel = 4#3 then .eb
  else if sel = 5#3 then .print
  else if sel = 6#3 then .preview
  else .tally

/-- Bytes of one element (R50, R72). -/
def elemBytes : SpaceId → Nat
  | .dot => 1
  | .errtab => 4
  | .pvlut => 1
  | .raster => 2
  | .eb => 4
  | .print => 1
  | .preview => 1
  | .tally => 4

/-- Elements of each space (R50, R77). -/
def capacity (p : Config.Params) : SpaceId → Nat
  | .dot => 65536
  | .errtab => 1835008
  | .pvlut => 256
  | .raster => p.rasterMax
  | .eb => 128 * p.ebMaxW
  | .print => 16 * p.pbMaxPix
  | .preview => 16 * p.pbMaxPix
  | .tally => 4096

/-- The byte listed at an address, if one is. -/
def lookupCell (addr : Nat) : List Host.Cell → Option Byte
  | [] => none
  | (k, v) :: rest => if k = addr then some v else lookupCell addr rest

/-- List a byte at an address, keeping the addresses rising. -/
def putCell (addr : Nat) (v : Byte) : List Host.Cell → List Host.Cell
  | [] => [(addr, v)]
  | (k, w) :: rest =>
    if addr < k then (addr, v) :: (k, w) :: rest
    else if addr = k then (addr, v) :: rest
    else (k, w) :: putCell addr v rest

/-- Take the byte at an address off the list. -/
def dropCell (addr : Nat) : List Host.Cell → List Host.Cell
  | [] => []
  | (k, w) :: rest => if k = addr then dropCell addr rest else (k, w) :: dropCell addr rest

/-- What an unlisted byte reads as (log 6). -/
def fillByte (id : SpaceId) (addr : Nat) : Fill → Byte
  | .const b => b
  | .free n => Config.freeByte n id addr

/-- Read one byte of a space. -/
def Space.readByte (id : SpaceId) (sp : Space) (addr : Nat) : Byte :=
  (lookupCell addr sp.cells).getD (fillByte id addr sp.fill)

/-- Write one byte of a space, keeping the canonical form: over a constant fill the fill's own value is not listed;
over a free fill, whose values nothing can know, every written byte is (log 6). -/
def Space.writeByte (sp : Space) (addr : Nat) (v : Byte) : Space :=
  if sp.fill = .const v then { sp with cells := dropCell addr sp.cells }
  else { sp with cells := putCell addr v sp.cells }

/-- `n` bytes from `addr` on, the lowest address lowest in the word (R71). -/
def Space.readBytes (id : SpaceId) (sp : Space) (addr : Nat) : Nat → Word
  | 0 => 0#32
  | n + 1 => (sp.readByte id addr).setWidth 32 ||| (sp.readBytes id (addr + 1) n) <<< 8

/-- Store the low `n` bytes of a word from `addr` on (R71). -/
def Space.writeBytes (sp : Space) (addr : Nat) (v : Word) : Nat → Space
  | 0 => sp
  | n + 1 => (sp.writeByte addr (v.setWidth 8)).writeBytes (addr + 1) (v >>> 8) n

/-- One of the eight spaces. No space aliases another (R70). -/
def Memory.get (m : Memory) : SpaceId → Space
  | .dot => m.dot
  | .errtab => m.errtab
  | .pvlut => m.pvlut
  | .raster => m.raster
  | .eb => m.eb
  | .print => m.print
  | .preview => m.preview
  | .tally => m.tally

/-- Replace one of the eight spaces. -/
def Memory.set (m : Memory) (sp : Space) : SpaceId → Memory
  | .dot => { m with dot := sp }
  | .errtab => { m with errtab := sp }
  | .pvlut => { m with pvlut := sp }
  | .raster => { m with raster := sp }
  | .eb => { m with eb := sp }
  | .print => { m with print := sp }
  | .preview => { m with preview := sp }
  | .tally => { m with tally := sp }

/-- `SPACE[i]`, zero-extended to 32 bits (00_scope.md R9, 20_memory.md R72). -/
def Memory.readElem (m : Memory) (id : SpaceId) (i : Nat) : Word :=
  (m.get id).readBytes id (i * elemBytes id) (elemBytes id)

/-- `SPACE[i] <- v`: the low bits of the word, as many as the element is wide (R9, R72). -/
def Memory.writeElem (m : Memory) (id : SpaceId) (i : Nat) (v : Word) : Memory :=
  m.set ((m.get id).writeBytes (i * elemBytes id) v (elemBytes id)) id

/-- Every element of a space becomes 0 (40_catalog_and_run_control.md R141). -/
def Memory.clearSpace (m : Memory) (id : SpaceId) : Memory :=
  m.set { fill := .const 0#8, cells := [] } id

/-- Every element of a space becomes unspecified (R146, 70_reset_and_hazards.md R263): free values at draw `n`. -/
def Memory.loseSpace (m : Memory) (id : SpaceId) (n : Nat) : Memory :=
  m.set (Space.unspecified n) id

/-- Addresses strictly rising. -/
def cellsRising : List Host.Cell → Bool
  | [] => true
  | [_] => true
  | (a, _) :: (b, v) :: rest => decide (a < b) && cellsRising ((b, v) :: rest)

/-- The canonical form of one space: addresses strictly rising, and no byte listed that a constant fill already
gives (log 6). -/
def Space.wf (sp : Space) : Bool :=
  cellsRising sp.cells && sp.cells.all (fun cell => decide (sp.fill ≠ .const cell.2))

/-- The canonical form of the memory: of every space. -/
def Memory.wf (m : Memory) : Bool :=
  m.dot.wf && m.errtab.wf && m.pvlut.wf && m.raster.wf && m.eb.wf && m.print.wf && m.preview.wf && m.tally.wf

end Sys2Proof.Machine
end

