-- ==== Sys2Proof/Machine/Operands.lean ====
section
/-! DEFINITION. What the commands read: the fields of the configuration registers (10_state.md R27 to R33), the
fields of the latched run (R45), and the element-index formulas of the engine (R51 to R58). -/

namespace Sys2Proof.Machine

/-- CONFIG.KERNEL (R27). -/
def ConfigRegs.kernel (c : ConfigRegs) : BitVec 5 := c.config.extractLsb' 0 5
/-- CONFIG.IN16 (R27). -/
def ConfigRegs.in16 (c : ConfigRegs) : Bool := c.config.getLsbD 5
/-- CONFIG.IMG16 (R27). -/
def ConfigRegs.img16 (c : ConfigRegs) : Bool := c.config.getLsbD 6
/-- CONFIG.RGB (R27). -/
def ConfigRegs.rgb (c : ConfigRegs) : Bool := c.config.getLsbD 7
/-- CONFIG.SERP (R27). -/
def ConfigRegs.serp (c : ConfigRegs) : Bool := c.config.getLsbD 8
/-- CONFIG.PAR (R27). -/
def ConfigRegs.par (c : ConfigRegs) : Bool := c.config.getLsbD 9
/-- CONFIG.CHANNELS (R27). -/
def ConfigRegs.channels (c : ConfigRegs) : BitVec 5 := c.config.extractLsb' 16 5
/-- CONFIG.THREADS (R27). -/
def ConfigRegs.threads (c : ConfigRegs) : BitVec 8 := c.config.extractLsb' 24 8
/-- INDIM.INW (R30). -/
def ConfigRegs.inw (c : ConfigRegs) : BitVec 16 := c.inDim.extractLsb' 0 16
/-- INDIM.INH (R30). -/
def ConfigRegs.inh (c : ConfigRegs) : BitVec 8 := c.inDim.extractLsb' 16 8
/-- OUTDIM.OUTW (R30). -/
def ConfigRegs.outw (c : ConfigRegs) : BitVec 16 := c.outDim.extractLsb' 0 16
/-- OUTDIM.OUTH (R30). -/
def ConfigRegs.outh (c : ConfigRegs) : BitVec 16 := c.outDim.extractLsb' 16 16
/-- LUTCTL.DOT_VALID (R33). -/
def ConfigRegs.dotValid (c : ConfigRegs) : Bool := c.lutCtl.getLsbD 0
/-- LUTCTL.ERR_VALID (R33). -/
def ConfigRegs.errValid (c : ConfigRegs) : Bool := c.lutCtl.getLsbD 1

/-- The configuration registers a command reads: as they were when it was accepted (R140, D37; log 3). -/
def State.acceptedCfg (s : State) : ConfigRegs :=
  match s.op with
  | .busy _ _ c => c
  | _ => s.cfg

/-- `run.INK[c]` (R31, R45): the physical ink of logical channel `c`, 0..15. -/
def Run.inkOf (r : Run) (c : Nat) : Nat := (r.ink.extractLsb' (4 * c) 4).toNat

/-- RASTER element of sample `(xi, yi, c)` (R54). -/
def rasterIndex (r : Run) (xi yi c : Nat) : Nat := (yi * r.inw.toNat + xi) * r.c.toNat + c

/-- ERRTAB element of intensity `q`, kernel row `kr`, slot `slot` (R52). -/
def errIndex (r : Run) (q kr slot : Nat) : Nat := q * r.ks.toNat + kr * 7 + slot

/-- EB element of cell `(bank, kr, c, col)` (R55). -/
def ebIndex (p : Config.Params) (bank kr c col : Nat) : Nat := ((bank * 4 + kr) * 16 + c) * p.ebMaxW + col

/-- PRINT element of output pixel `(x, y)` for physical ink `k` (R56). -/
def printIndex (p : Config.Params) (r : Run) (k x y : Nat) : Nat := k * p.pbMaxPix + y * r.outw.toNat + x

/-- PREVIEW element of output pixel `(x, y)`, logical channel `c` (R57). -/
def previewIndex (r : Run) (x y c : Nat) : Nat := (y * r.outw.toNat + x) * r.c.toNat + c

/-- TALLY element of dot code `d` on physical ink `k` (R58). -/
def tallyIndex (k d : Nat) : Nat := k * 256 + d

/-- Every index ROW and BAND form is inside its space (41_row_halftone.md R186): the kernel fits a bank and a
table row, the channels fit, the three buffers fit, and the steps stay inside the input raster (R139). -/
def Run.fits (p : Config.Params) (r : Run) : Bool :=
  decide (1 ≤ r.kh.toNat) && decide (r.kh.toNat ≤ 4) && decide (r.ks.toNat = 7 * r.kh.toNat) &&
  decide (1 ≤ r.c.toNat) && decide (r.c.toNat ≤ 16) &&
  decide (1 ≤ r.inw.toNat) && decide (1 ≤ r.inh.toNat) &&
  decide (r.outw.toNat ≤ p.ebMaxW) && decide (r.outw.toNat * r.outh.toNat ≤ p.pbMaxPix) &&
  decide (r.inw.toNat * r.inh.toNat * r.c.toNat ≤ p.rasterMax) &&
  decide ((r.outw.toNat - 1) * r.xstep.toNat / 65536 < r.inw.toNat) &&
  decide ((r.outh.toNat - 1) * r.ystep.toNat / 65536 < r.inh.toNat)

end Sys2Proof.Machine
end

