-- ==== Sys2Proof/Machine/Ops.lean ====
section
/-! DEFINITION. The shared operations on the state: its named updates; raising an error and leaving the error state
(60_exceptions.md R236, R240); accepting a command (R231); completing one; flagging a host violation (R241). -/

namespace Sys2Proof.Machine

/-- The one answer of a step (Host/Core.lean). -/
abbrev Result := Host.Outcome State Fault Refusal

/-- Replace the operating state. -/
def State.withOp (s : State) (op : OpState) : State := { s with op := op }
/-- Replace the latched run. -/
def State.withRun (s : State) (run : Run) : State := { s with run := run }
/-- Replace the memory spaces. -/
def State.withMem (s : State) (mem : Memory) : State := { s with mem := mem }
/-- Replace the working registers of the task being run. -/
def State.withTask (s : State) (task : TaskRegs) : State := { s with task := task }
/-- Replace the local tallies that wait for the join. -/
def State.withFinished (s : State) (ts : List Tally) : State := { s with finished := ts }
/-- Replace the configuration registers. -/
def State.withCfg (s : State) (cfg : ConfigRegs) : State := { s with cfg := cfg }
/-- Replace the events still to come. -/
def State.withEvents (s : State) (es : List Event) : State := { s with events := es }
/-- Set the bus output. -/
def State.withRdata (s : State) (v : Word) : State := { s with rdata := v }
/-- Set MEMADDR. -/
def State.withMemAddr (s : State) (v : Word) : State := { s with memAddr := v }
/-- Set IRQPEND. -/
def State.withPend (s : State) (v : BitVec 3) : State := { s with irqPend := v }
/-- Move to the next free value (log 14). -/
def State.nextDraw (s : State) : State := { s with draws := s.draws + 1 }

/-- Set a bit of IRQPEND; it stays set until the host clears it or reset (R39, R243). -/
def State.setPend (s : State) (bit : BitVec 3) : State := s.withPend (s.irqPend ||| bit)

/-- A host access that is ignored as a violation (R241): HVIOL is set, nothing else changes. -/
def State.violate (s : State) : State := s.setPend hviolBit

/-- TAKING AN EXCEPTION: `raise E` (R236). ERRCODE and ERR say the error, READY and BUSY are 0, ERRV is set, DONE
is not; nothing else changes (R237) and control goes nowhere. -/
def State.raise (s : State) (e : ErrCode) : State := (s.withOp (.error e)).setPend errvBit

/-- The operating state with BUSY = 0, ERR = 0 and a READY bit (R41). -/
def restingOp (ready : Bool) : OpState := if ready then .ready else .idle

/-- THE RETURN: leaving the error state (R240): ERR and ERRCODE are 0. READY is not restored. -/
def State.leaveError (s : State) : State := s.withOp (restingOp s.readyFlag)

/-- The error-free completion of a command: BUSY is 0, READY is `ready`, DONE is set (R41, R242), and the working
registers of its tasks are gone (10_state.md R46). -/
def State.complete (s : State) (ready : Bool) : State :=
  (((s.withOp (restingOp ready)).withTask .idle).withFinished []).setPend doneBit

/-- Acceptance (R231): BUSY becomes 1; the engine holds the word and the configuration as they now stand (R140;
log 3). READY keeps its value (R26); ERR and ERRCODE are 0, as R26 and R41 say of a BUSY engine (log 4). -/
def State.accept (s : State) (w : Word) : State := s.withOp (.busy s.readyFlag w s.cfg)

/-- A write of `w` to CMD, by operating state (R231). -/
def State.writeCmd (s : State) (w : Word) : State :=
  match s.op with
  | .busy _ _ _ => s.violate
  | .error _ => if w = encode .clrerr then s.accept w else s.violate
  | .idle => s.accept w
  | .ready => s.accept w

/-- How every meaning begins. In BUSY the command has been accepted and is carried out. In a resting state the
acceptance and the completion are one step (00_scope.md R16; log 20): IDLE and READY accept every command, ERROR
accepts CLRERR alone and ignores any other as a violation (R231). -/
def issue (i : Instr) (s : State) (carryOut : State → Result) : Result :=
  match s.op with
  | .busy _ _ _ => carryOut s
  | .error _ => if i = .clrerr then carryOut (s.accept (encode i)) else .next s.violate
  | .idle => carryOut (s.accept (encode i))
  | .ready => carryOut (s.accept (encode i))

/-- The spaces the engine writes lose their contents: EB, PRINT, PREVIEW and TALLY (70_reset_and_hazards.md R263,
log 8). -/
def State.loseBuffers (s : State) : State :=
  (s.withMem ((((s.mem.loseSpace .eb s.draws).loseSpace .print s.draws).loseSpace .preview s.draws).loseSpace
    .tally s.draws)).nextDraw

/-- The part of reset that soft and hardware reset share (10_state.md R60): every register at its reset value, IDLE,
`run` zero, no task. -/
def State.resetRegisters (s : State) : State :=
  { s with
    irqEn := State.reset.irqEn
    irqPend := State.reset.irqPend
    cfg := .reset
    memSel := State.reset.memSel
    memAddr := State.reset.memAddr
    op := .idle
    run := .zero
    task := .idle
    finished := [] }

/-- Soft reset (70_reset_and_hazards.md R262, R263): the memories keep their contents, but for the engine's own
buffers when a command was interrupted. -/
def State.softReset (s : State) : State :=
  if s.busyFlag then s.loseBuffers.resetRegisters else s.resetRegisters

/-- Hardware reset (R260): soft reset's effect on registers, and every space unspecified (R60; log 6). The bus output
returns to its reset value (log 15). -/
def State.hardReset (s : State) : State :=
  ((s.resetRegisters.withMem (.unspecified s.draws)).withRdata State.reset.rdata).nextDraw

end Sys2Proof.Machine
end

