-- ==== Sys2Proof/Machine/Pipeline.lean ====
section
/-! DEFINITION. The Row Halftone Processor's steps 1 to 7 (41_row_halftone.md R162 to R178) and the Output Encoder
(43_output_encoder.md R220 to R225), each as an operation on the state and the working registers in it. -/

namespace Sys2Proof.Machine

/-- Integer part of a UQ16.16 position `i * step` (R165, R166). -/
def gridBase (i step : Nat) : Nat := i * step / 65536

/-- Weight of the next sample, in 1/256 (R165, R166). -/
def gridWeight (i step : Nat) : Nat := i * step / 256 % 256

/-- The next sample's index, clamped to the last of `n` (R165, R166). -/
def gridNext (i step n : Nat) : Nat := min (gridBase i step + 1) (n - 1)

/-- Sample fetch `S(xi, yi, ch)` (R167). -/
def fetchSample (s : State) (xi yi ch : Nat) : Nat :=
  let raw := s.mem.readElem .raster (rasterIndex s.run xi yi ch)
  if s.run.s16 then (raw.extractLsb' 0 16).toNat
  else if s.run.w16 then (raw.extractLsb' 0 8).toNat * 257
  else (raw.extractLsb' 0 8).toNat

/-- The two-stage bilinear sum (R168), UQ16.16, of the four samples under the weights `wx` and `wy`. -/
def bilinear (s00 s10 s01 s11 wx wy : Nat) : Nat :=
  (s00 * (256 - wx) + s10 * wx) * (256 - wy) + (s01 * (256 - wx) + s11 * wx) * wy

/-- `resample` (R168, R169) at output column `x`, output row `y`, channel `ch`: UQ16.8, rounded half up. -/
def resample (s : State) (x y ch : Nat) : Nat :=
  let x0 := gridBase x s.run.xstep.toNat
  let x1 := gridNext x s.run.xstep.toNat s.run.inw.toNat
  let wx := gridWeight x s.run.xstep.toNat
  let y0 := gridBase y s.run.ystep.toNat
  let y1 := gridNext y s.run.ystep.toNat s.run.inh.toNat
  let wy := gridWeight y s.run.ystep.toNat
  let v16 := bilinear (fetchSample s x0 y0 ch) (fetchSample s x1 y0 ch) (fetchSample s x0 y1 ch)
    (fetchSample s x1 y1 ch) wx wy
  min ((v16 + 128) / 256) (256 * s.run.m.toNat)

/-- The cell `EB[bank][kr][ch][col]` (R55). -/
def State.ebCell (s : State) (bank kr ch col : Nat) : F32 :=
  s.mem.readElem .eb (ebIndex s.params bank kr ch col)

/-- `EB[bank][kr][ch][col] <- v` (R55). -/
def State.setEbCell (s : State) (bank kr ch col : Nat) (v : F32) : State :=
  s.withMem (s.mem.writeElem .eb (ebIndex s.params bank kr ch col) v)

/-- The entry `ERRTAB[q * KS + kr * 7 + slot]` (R52). -/
def State.errEntry (s : State) (q kr slot : Nat) : F32 := s.mem.readElem .errtab (errIndex s.run q kr slot)

/-- Step 1 (R165 to R169): the resampled intensity. -/
def pixelResample (s : State) : State :=
  s.withTask { s.task with v8 := resample s s.task.x.toNat s.task.y s.task.ch }

/-- Step 2 (R170): the accumulated error of this cell is added. -/
def pixelAddError (s : State) : State :=
  s.withTask { s.task with
    a := fadd32 (f32Fix8 s.task.v8) (s.ebCell s.task.b 0 s.task.ch s.task.x.toNat) }

/-- The draw `u` of a pixel, in `[-NRF, NRS - NRF)` (00_scope.md R17, R172): the generator's free answer (log 9)
brought into the set. -/
def drawNoise (r : Run) (n ch y x : Nat) : Int :=
  (Config.noiseGen r.seed n ch y x % r.nrs.toNat : Nat) - (r.nrf.toNat : Int)

/-- The noise term `n8` (R172): `u` scaled by the variance proxy, in 1/256, toward zero. -/
def noiseTerm (u : Int) (d8 m : Nat) : Int := tdiv (u * (256 * m - d8 : Int)) m

/-- Step 3 is active for a pixel (R171). -/
def State.noiseActive (s : State) : Bool := decide (0 < s.task.v8) && decide (s.run.h ≠ 0#10)

/-- Step 3 (R171 to R173): when active, move the average, then add the drawn noise; else nothing. -/
def pixelNoise (s : State) : State :=
  if s.noiseActive then
    let avg := (s.task.avg + s.task.v8) / 2
    let d8 := ((avg : Int) - (s.task.v8 : Int)).natAbs
    let u := drawNoise s.run s.draws s.task.ch s.task.y s.task.x.toNat
    s.withTask { s.task with avg := avg, a := fadd32 s.task.a (f32Fix8 (noiseTerm u d8 s.run.m.toNat)) }
  else s

/-- The end of step 3 (R174): the quantised intensity. -/
def pixelQuantise (s : State) : State :=
  s.withTask { s.task with q := quant s.task.a s.run.m.toNat }

/-- Step 4 (R175): the dot code. -/
def pixelDot (s : State) : State :=
  s.withTask { s.task with dot := (s.mem.readElem .dot s.task.q).setWidth 8 }

/-- The target column of a slot (R176): `x + (slot - 3) * step`. -/
def slotTarget (x step : Int) (slot : Nat) : Int := x + ((slot : Int) - 3) * step

/-- One addition of step 5 (R176); a target outside the row receives nothing (R177). -/
def diffuseSlot (kr slot : Nat) (s : State) : State :=
  let t := slotTarget s.task.x s.task.step slot
  if 0 ≤ t ∧ t < (s.run.outw.toNat : Int) then
    s.setEbCell s.task.b kr s.task.ch t.toNat
      (fadd32 (s.ebCell s.task.b kr s.task.ch t.toNat) (s.errEntry s.task.q kr slot))
  else s

/-- The seven slots of one kernel row (R176). -/
def diffuseRow (kr : Nat) (s : State) : State :=
  (List.range Config.kernelWidth).foldl (fun s slot => diffuseSlot kr slot s) s

/-- Step 5 (R176): every kernel row. -/
def pixelDiffuse (s : State) : State :=
  (List.range s.run.kh.toNat).foldl (fun s kr => diffuseRow kr s) s

/-- One move of step 6 (R178): kernel row `kr + 1` of this column into kernel row `kr`. -/
def shiftRow (kr : Nat) (s : State) : State :=
  s.setEbCell s.task.b kr s.task.ch s.task.x.toNat (s.ebCell s.task.b (kr + 1) s.task.ch s.task.x.toNat)

/-- Step 6 (R178): the column moves up one kernel row and the last kernel row becomes +0.0. -/
def pixelShift (s : State) : State :=
  ((List.range (s.run.kh.toNat - 1)).foldl (fun s kr => shiftRow kr s) s).setEbCell s.task.b (s.run.kh.toNat - 1)
    s.task.ch s.task.x.toNat 0#32

/-- One more dot on a task-local counter, modulo 2^32 (43_output_encoder.md R224). -/
def tallyBump (k : Nat) : Tally → Tally
  | [] => [(k, 1#32)]
  | (j, n) :: rest => if j = k then (j, n + 1#32) :: rest else (j, n) :: tallyBump k rest

/-- A task-local counter; one that is not listed is 0 (R46). -/
def tallyAt (k : Nat) : Tally → Word
  | [] => 0#32
  | (j, n) :: rest => if j = k then n else tallyAt k rest

/-- Step 7, `Emit` (R220 to R224): print byte by physical ink, preview byte by logical channel, local tally. -/
def pixelEmit (s : State) : State :=
  let t := s.task
  let k := s.run.inkOf t.ch
  let x := t.x.toNat
  let mem := s.mem.writeElem .print (printIndex s.params s.run k x t.y) (t.dot.setWidth 32)
  let mem := mem.writeElem .preview (previewIndex s.run x t.y t.ch) (s.mem.readElem .pvlut t.dot.toNat)
  (s.withMem mem).withTask { t with tally := tallyBump (tallyIndex k t.dot.toNat) t.tally }

/-- The column moves on (R163). -/
def pixelAdvance (s : State) : State := s.withTask { s.task with x := s.task.x + s.task.step }

/-- One pixel: steps 1 to 7 in order, then the next column (R163). -/
def pixel (s : State) : State :=
  pixelAdvance (pixelEmit (pixelShift (pixelDiffuse (pixelDot (pixelQuantise (pixelNoise (pixelAddError
    (pixelResample s))))))))

/-- `n` pixels in scan order. -/
def pixels : Nat → State → State
  | 0, s => s
  | n + 1, s => pixels n (pixel s)

/-- The row is scanned backward (R162, R164). -/
def reverseScan (r : Run) (y : Nat) : Bool := r.serp && decide (y % 2 = 1)

/-- Work-unit setup (R162): bank, direction, first column, average 0. The task's list and tally are kept. -/
def setupUnit (u : WorkUnit) (s : State) : State :=
  let rev := reverseScan s.run u.2
  s.withTask { TaskRegs.idle with
    units := s.task.units
    tally := s.task.tally
    ch := u.1
    y := u.2
    b := u.2 % 2
    step := if rev then -1 else 1
    x := if rev then (s.run.outw.toNat : Int) - 1 else 0 }

/-- `RowProcess` (R163): setup, then exactly OUTW pixels. -/
def rowProcess (u : WorkUnit) (s : State) : State := pixels s.run.outw.toNat (setupUnit u s)

/-- The units of a task's list, one at a time in list order (42_band_dispatch.md R204). -/
def runUnits : List WorkUnit → State → State
  | [], s => s
  | u :: rest, s => runUnits rest (rowProcess u (s.withTask { s.task with units := rest }))

/-- One task from its start, local tally all zero, to the end of its list (R200); its tally then waits for the join. -/
def runTask (units : List WorkUnit) (s : State) : State :=
  let t := runUnits units (s.withTask { TaskRegs.idle with units := units })
  (t.withFinished (t.finished ++ [t.task.tally])).withTask .idle

/-- Add one local tally into TALLY, modulo 2^32 (43_output_encoder.md R225). A counter it does not list is 0. -/
def mergeTally (m : Memory) (t : Tally) : Memory :=
  t.foldl (fun m kn => m.writeElem .tally kn.1 (m.readElem .tally kn.1 + kn.2)) m

/-- The join's tally merge (R225): every local tally that waits is added into TALLY. -/
def State.mergeTallies (s : State) : State := (s.withMem (s.finished.foldl mergeTally s.mem)).withFinished []

end Sys2Proof.Machine
end

