-- ==== Sys2Proof/Machine/Band.lean ====
section
/-! DEFINITION. BAND (42_band_dispatch.md): the partition into tasks, their work-unit lists, the join. -/

namespace Sys2Proof.Machine

/-- The rows below `outh` of parity `p`, ascending (R203). -/
def rowsOfParity (p outh : Nat) : List Nat := (List.range outh).filter (fun y => y % 2 = p)

/-- The task list of `(c, p)` in the partition into `2*C` tasks (R203). -/
def unitsOfKey (outh c p : Nat) : List WorkUnit := (rowsOfParity p outh).map (fun y => (c, y))

/-- The task list of channel `c` in the partition into `C` tasks (R203). -/
def unitsOfChannel (outh c : Nat) : List WorkUnit := (List.range outh).map (fun y => (c, y))

/-- The units of some rows, rows outermost and channels innermost (R203). -/
def unitsOfRows (chans : Nat) (rows : List Nat) : List WorkUnit :=
  rows.flatMap (fun y => (List.range chans).map (fun c => (c, y)))

/-- The partition (R202) and the list of each task (R203). -/
def partition (par : Bool) (threads chans outh : Nat) : List (List WorkUnit) :=
  if par ∧ 8 ≤ threads then
    (List.range chans).flatMap (fun c => [unitsOfKey outh c 0, unitsOfKey outh c 1])
  else if par ∧ 4 ≤ threads then (List.range chans).map (unitsOfChannel outh)
  else if par ∧ 2 ≤ threads then
    [unitsOfRows chans (rowsOfParity 0 outh), unitsOfRows chans (rowsOfParity 1 outh)]
  else [unitsOfRows chans (List.range outh)]

/-- The tasks of the latched run (R200). -/
def Run.tasks (r : Run) : List (List WorkUnit) := partition r.par r.threads.toNat r.c.toNat r.outh.toNat

/-- `check()` of BAND (R201). OUTDIM.OUTW is the register at acceptance (D37). -/
def bandError (s : State) : Option ErrCode :=
  if s.readyFlag = false then some .noActiveRun
  else if s.acceptedCfg.outw ≠ s.run.outw then some .bufferBoundsExceeded
  else none

/-- Two of the run's channels print on physical ink `k` (70_reset_and_hazards.md R274, U5). -/
def Run.inkShared (r : Run) (k : Nat) : Bool :=
  decide (2 ≤ ((List.range r.c.toNat).filter (fun c => r.inkOf c = k)).length)

/-- The `n` PRINT elements of ink `k` from pixel 0 on become unspecified. -/
def losePrint (p : Config.Params) (d k : Nat) : Nat → Memory → Memory
  | 0, m => m
  | n + 1, m =>
    losePrint p d k n (m.writeElem .print (k * p.pbMaxPix + n)
      ((Config.freeByte d .print (k * p.pbMaxPix + n)).setWidth 32))

/-- Under a BAND of several tasks the PRINT elements that several channels write are unspecified (R274, U5; log 11).
With distinct inks this is nothing. -/
def State.loseSharedInks (s : State) : State :=
  if 2 ≤ s.run.tasks.length then
    s.withMem ((List.range Config.channelMax).foldl
      (fun m k =>
        if s.run.inkShared k then losePrint s.params s.draws k (s.run.outw.toNat * s.run.outh.toNat) m else m)
      s.mem)
  else s

/-- What BAND does to the data (R200): the tasks one after another, which R206 says is not observable (log 12), then
the join (R207) and the tally merge. -/
def bandEffect (s : State) : State :=
  ((s.run.tasks.foldl (fun s units => runTask units s) (s.withFinished [])).loseSharedInks.mergeTallies).nextDraw

/-- BAND (R200). -/
def execBand (s : State) : Result :=
  issue .band s fun s =>
    match bandError s with
    | some e => .next (s.raise e)
    | none =>
      if s.run.fits s.params then .next ((bandEffect s).complete s.readyFlag)
      else .fault .engineAccessOutsideSpace

end Sys2Proof.Machine
end

