-- ==== Sys2Proof/Machine/Row.lean ====
section
/-! DEFINITION. ROW (41_row_halftone.md R160, R161): one work unit. -/

namespace Sys2Proof.Machine

/-- `check(CH, Y)` (R161): the first that applies. OUTDIM.OUTW is the register at acceptance (D37). -/
def rowError (s : State) (ch y : Nat) : Option ErrCode :=
  if s.readyFlag = false then some .noActiveRun
  else if s.run.c.toNat ≤ ch ∨ s.run.outh.toNat ≤ y then some .illegalCommand
  else if s.acceptedCfg.outw ≠ s.run.outw then some .bufferBoundsExceeded
  else none

/-- What ROW does to the data (R160): one task of one unit, then the tally merge. -/
def rowEffect (ch y : Nat) (s : State) : State :=
  ((runTask [(ch, y)] (s.withFinished [])).mergeTallies).nextDraw

/-- ROW CH, Y (R160). -/
def execRow (ch y : Nat) (s : State) : Result :=
  issue (.row ch y) s fun s =>
    match rowError s ch y with
    | some e => .next (s.raise e)
    | none =>
      if s.run.fits s.params then .next ((rowEffect ch y s).complete s.readyFlag)
      else .fault .engineAccessOutsideSpace

end Sys2Proof.Machine
end

