-- ==== Sys2Proof/Machine/RunControl.lean ====
section
/-! DEFINITION. The Kernel Catalog and the commands that control a run: NOP, INIT, END (40_catalog_and_run_control.md)
and CLRERR (60_exceptions.md R240). -/

namespace Sys2Proof.Machine

/-- The Kernel Catalog (R130): heights of kernels 0 to 16. -/
def kernelHeights : List Nat := [2, 2, 3, 3, 3, 2, 2, 2, 2, 3, 3, 3, 3, 3, 4, 4, 2]

/-- `height[k]`; none for an index outside the catalog (R132). -/
def kernelHeight (k : Nat) : Option Nat := kernelHeights[k]?

/-- `kernelSize` of a height (R131). -/
def kernelSize (kh : Nat) : Nat := 7 * kh

/-- `W16 = IN16 or RGB` (R135). -/
def ConfigRegs.w16 (c : ConfigRegs) : Bool := c.in16 || c.rgb
/-- `S16 = IMG16 or RGB` (R135). -/
def ConfigRegs.s16 (c : ConfigRegs) : Bool := c.img16 || c.rgb
/-- `M` (R135): 65535 at working depth 16, else 255. -/
def maxPixel (w16 : Bool) : Nat := if w16 then 65535 else 255
/-- `NSCL` (R135): 257 at working depth 16, else 1. -/
def noiseScale (w16 : Bool) : Nat := if w16 then 257 else 1

/-- `tables_ok` (R136): both tables declared present, with the sizes the working depth and the kernel need. -/
def tablesOk (c : ConfigRegs) (kh : Nat) : Bool :=
  c.dotValid && decide (c.dotSize.toNat = maxPixel c.w16 + 1) &&
  c.errValid && decide (c.errSize.toNat = (maxPixel c.w16 + 1) * kernelSize kh)

/-- `sizes_ok` (R142). -/
def sizesOk (p : Config.Params) (c : ConfigRegs) : Bool :=
  decide (1 ≤ c.channels.toNat) && decide (c.channels.toNat ≤ Config.channelMax) &&
  decide (1 ≤ c.inw.toNat) && decide (1 ≤ c.inh.toNat) && decide (1 ≤ c.outw.toNat) && decide (1 ≤ c.outh.toNat) &&
  decide (c.outw.toNat ≤ p.ebMaxW) && decide (c.outw.toNat * c.outh.toNat ≤ p.pbMaxPix) &&
  decide (c.inw.toNat * c.inh.toNat * c.channels.toNat ≤ p.rasterMax)

/-- `normalise(HYST)` (R137): the two's-complement value if it is in 0..1000, else the default. -/
def normaliseHyst (h : BitVec 16) : Nat :=
  if 0 ≤ h.toInt ∧ h.toInt ≤ 1000 then h.toNat else Config.hystDefault

/-- `nr` of `noise_range` (R138). -/
def noiseRange (h nscl : Nat) : Nat := (4000 + 24 * h) * nscl / 1000

/-- The checks of INIT in their order (R134, 60_exceptions.md R245): the first that fails decides. -/
def initError (p : Config.Params) (c : ConfigRegs) : Option ErrCode :=
  match kernelHeight c.kernel.toNat with
  | none => some .invalidKernelIndex
  | some kh =>
    if c.in16 = false ∧ c.img16 = true then some .incompatibleBitDepth
    else if tablesOk c kh = false then some .missingLookupTable
    else if sizesOk p c = false then some .allocationError
    else none

/-- What INIT latches (R140): the fields of 10_state.md R45 from the configuration registers. -/
def latchRun (c : ConfigRegs) : Run :=
  let kh := (kernelHeight c.kernel.toNat).getD 0
  let h := normaliseHyst c.hyst
  let nr := noiseRange h (noiseScale c.w16)
  { k := c.kernel
    kh := BitVec.ofNat 3 kh
    ks := BitVec.ofNat 5 (kernelSize kh)
    w16 := c.w16
    s16 := c.s16
    m := BitVec.ofNat 16 (maxPixel c.w16)
    nscl := BitVec.ofNat 9 (noiseScale c.w16)
    h := BitVec.ofNat 10 h
    nrs := BitVec.ofNat 16 (nr + 1)
    nrf := BitVec.ofNat 16 (nr / 2)
    serp := c.serp
    par := c.par
    threads := c.threads
    c := c.channels
    dotLevels := c.dotLevels
    ink := c.inkOrd1 ++ c.inkOrd0
    inw := c.inw
    inh := c.inh
    outw := c.outw
    outh := c.outh
    xstep := BitVec.ofNat 32 (c.inw.toNat * 65536 / c.outw.toNat)
    ystep := BitVec.ofNat 24 (c.inh.toNat * 65536 / c.outh.toNat)
    seed := c.seed }

/-- What a successful INIT does to the data (R140, R141): latch the run, clear EB and TALLY. -/
def State.startRun (s : State) : State :=
  (s.withRun (latchRun s.acceptedCfg)).withMem ((s.mem.clearSpace .eb).clearSpace .tally)

/-- What END does to the data (R146): every element of EB becomes unspecified (U2; log 8). -/
def State.discardRun (s : State) : State := (s.withMem (s.mem.loseSpace .eb s.draws)).nextDraw

/-- NOP (R145). -/
def execNop (s : State) : Result :=
  issue .nop s fun s => .next (s.complete s.readyFlag)

/-- INIT (R134). -/
def execInit (s : State) : Result :=
  issue .init s fun s =>
    match initError s.params s.acceptedCfg with
    | some e => .next (s.raise e)
    | none => .next (s.startRun.complete true)

/-- END (R146). -/
def execEnd (s : State) : Result :=
  issue .endRun s fun s =>
    if s.readyFlag then .next (s.discardRun.complete false) else .next (s.raise .noActiveRun)

/-- CLRERR (60_exceptions.md R240). -/
def execClrerr (s : State) : Result :=
  issue .clrerr s fun s => .next (s.leaveError.complete s.leaveError.readyFlag)

end Sys2Proof.Machine
end

