-- ==== Sys2Proof/Machine/Dispatch.lean ====
section
/-! DEFINITION. One arm per command of spec/opcode_table.json. -/

namespace Sys2Proof.Machine

def exec (i : Instr) (s : State) : Host.Outcome State Fault Refusal :=
  match i with
  | .nop => Sys2Proof.Machine.execNop s
  | .init => Sys2Proof.Machine.execInit s
  | .row ch y => Sys2Proof.Machine.execRow ch y s
  | .band => Sys2Proof.Machine.execBand s
  | .endRun => Sys2Proof.Machine.execEnd s
  | .clrerr => Sys2Proof.Machine.execClrerr s

end Sys2Proof.Machine
end

