-- ==== Sys2Proof/Machine/Registers.lean ====
section
/-! DEFINITION. The register window (10_state.md R21 to R40) and the host's MEM port (20_memory.md R77 to R80). -/

namespace Sys2Proof.Machine

/-- The register at a word offset (R22); none for the reserved offsets 0x60 to 0xFC (R23). -/
def regAt (addr : BitVec 6) : Option Reg :=
  [Reg.id, .cmd, .status, .ctrl, .irqEn, .irqPend, .config, .hyst, .dotLevels, .inDim, .outDim, .inkOrd0, .inkOrd1,
    .seed, .lutCtl, .dotSize, .errSize, .xStep, .yStep, .noise, .runInfo, .memSel, .memAddr, .memData][addr.toNat]?

/-- The word offset of a register: its byte offset of R22 divided by 4. -/
def regAddr : Reg → BitVec 6
  | .id => 0x00#6
  | .cmd => 0x01#6
  | .status => 0x02#6
  | .ctrl => 0x03#6
  | .irqEn => 0x04#6
  | .irqPend => 0x05#6
  | .config => 0x06#6
  | .hyst => 0x07#6
  | .dotLevels => 0x08#6
  | .inDim => 0x09#6
  | .outDim => 0x0A#6
  | .inkOrd0 => 0x0B#6
  | .inkOrd1 => 0x0C#6
  | .seed => 0x0D#6
  | .lutCtl => 0x0E#6
  | .dotSize => 0x0F#6
  | .errSize => 0x10#6
  | .xStep => 0x11#6
  | .yStep => 0x12#6
  | .noise => 0x13#6
  | .runInfo => 0x14#6
  | .memSel => 0x15#6
  | .memAddr => 0x16#6
  | .memData => 0x17#6

/-- ID (R24). -/
def idWord : Word := 0x45444801#32

/-- The bits CONFIG has (R27): all but 15:10 and 23:21. -/
def configMask : Word := 0xFF1F03FF#32

/-- NOISE (R35): NRF in 15:0, NRS in 31:16. -/
def Run.noiseWord (r : Run) : Word := r.nrs ++ r.nrf

/-- RUNINFO (R36): KH 2:0, KSIZE 7:3, W16 bit 8, S16 bit 9, NOISE_ON bit 10, HEFF 25:16. -/
def Run.infoWord (r : Run) : Word :=
  0#6 ++ r.h ++ 0#5 ++ BitVec.ofBool (decide (r.h ≠ 0#10)) ++ BitVec.ofBool r.s16 ++ BitVec.ofBool r.w16 ++ r.ks ++ r.kh

/-- What a register reads as, MEMDATA apart (R21 to R39). WO registers read 0 (R21), reserved bits read 0. -/
def State.regValue (s : State) : Reg → Word
  | .id => idWord
  | .cmd => 0#32
  | .status => s.status
  | .ctrl => 0#32
  | .irqEn => s.irqEn.setWidth 32
  | .irqPend => s.irqPend.setWidth 32
  | .config => s.cfg.config &&& configMask
  | .hyst => s.cfg.hyst.setWidth 32
  | .dotLevels => s.cfg.dotLevels.setWidth 32
  | .inDim => s.cfg.inDim.setWidth 32
  | .outDim => s.cfg.outDim
  | .inkOrd0 => s.cfg.inkOrd0
  | .inkOrd1 => s.cfg.inkOrd1
  | .seed => s.cfg.seed
  | .lutCtl => s.cfg.lutCtl.setWidth 32
  | .dotSize => s.cfg.dotSize.setWidth 32
  | .errSize => s.cfg.errSize.setWidth 32
  | .xStep => s.run.xstep
  | .yStep => s.run.ystep.setWidth 32
  | .noise => s.run.noiseWord
  | .runInfo => s.run.infoWord
  | .memSel => s.memSel.setWidth 32
  | .memAddr => s.memAddr
  | .memData => 0#32

/-- Whether MEMADDR is in range of the selected space (R77). -/
def State.portInRange (s : State) : Bool := decide (s.memAddr.toNat < capacity s.params (spaceOfSel s.memSel))

/-- MEMADDR moves on by one, modulo 2^32 (R37, R78). -/
def State.bumpAddr (s : State) : State := s.withMemAddr (s.memAddr + 1#32)

/-- A MEMDATA read: performed (R78), out of range (R79), or BUSY, when the value is free (R80, U3; log 10). -/
def State.readMemData (s : State) : State :=
  if s.busyFlag then ((s.withRdata (Config.busyReadData s.draws)).violate).nextDraw
  else if s.portInRange then
    (s.withRdata (s.mem.readElem (spaceOfSel s.memSel) s.memAddr.toNat)).bumpAddr
  else (s.withRdata 0#32).violate

/-- A MEMDATA write: performed (R78), out of range (R79), or BUSY (R80). -/
def State.writeMemData (s : State) (v : Word) : State :=
  if s.busyFlag then s.violate
  else if s.portInRange then
    (s.withMem (s.mem.writeElem (spaceOfSel s.memSel) s.memAddr.toNat v)).bumpAddr
  else s.violate

/-- A host read of one register (R21, R74). -/
def State.readReg (s : State) (r : Reg) : State :=
  match r with
  | .memData => s.readMemData
  | r => s.withRdata (s.regValue r)

/-- A host write of one register (R21, R74): RO registers and reserved bits ignore it. -/
def State.writeReg (s : State) (r : Reg) (v : Word) : State :=
  match r with
  | .id => s
  | .cmd => s.writeCmd v
  | .status => s
  | .ctrl => if v.getLsbD 0 then s.softReset else s
  | .irqEn => { s with irqEn := v.setWidth 3 }
  | .irqPend => s.withPend (s.irqPend &&& ~~~(v.setWidth 3))
  | .config => s.withCfg { s.cfg with config := v &&& configMask }
  | .hyst => s.withCfg { s.cfg with hyst := v.setWidth 16 }
  | .dotLevels => s.withCfg { s.cfg with dotLevels := v.setWidth 9 }
  | .inDim => s.withCfg { s.cfg with inDim := v.setWidth 24 }
  | .outDim => s.withCfg { s.cfg with outDim := v }
  | .inkOrd0 => s.withCfg { s.cfg with inkOrd0 := v }
  | .inkOrd1 => s.withCfg { s.cfg with inkOrd1 := v }
  | .seed => s.withCfg { s.cfg with seed := v }
  | .lutCtl => s.withCfg { s.cfg with lutCtl := v.setWidth 2 }
  | .dotSize => s.withCfg { s.cfg with dotSize := v.setWidth 17 }
  | .errSize => s.withCfg { s.cfg with errSize := v.setWidth 21 }
  | .xStep => s
  | .yStep => s
  | .noise => s
  | .runInfo => s
  | .memSel => { s with memSel := v.setWidth 3 }
  | .memAddr => s.withMemAddr v
  | .memData => s.writeMemData v

/-- A bus read at a word offset; a reserved offset reads 0 (R23). -/
def State.busRead (s : State) (addr : BitVec 6) : State :=
  match regAt addr with
  | some r => s.readReg r
  | none => s.withRdata 0#32

/-- A bus write at a word offset; a reserved offset ignores it (R23). -/
def State.busWrite (s : State) (addr : BitVec 6) (v : Word) : State :=
  match regAt addr with
  | some r => s.writeReg r v
  | none => s

end Sys2Proof.Machine
end

