-- ==== Sys2Proof/Machine/Step.lean ====
section
/-! DEFINITION. One step of the machine: the next event at its boundary (log 1), or, with none left, the engine's
own progress (70_reset_and_hazards.md R279). -/

namespace Sys2Proof.Machine

/-- The engine's turn: the accepted word is decoded (60_exceptions.md R232); an illegal one raises IllegalCommand
(30_encoding.md R104), a legal one is carried out by its rule. An engine that is not BUSY does nothing (R248). -/
def engineTurn (s : State) : Host.Outcome State Fault Refusal :=
  match s.op with
  | .busy _ w _ =>
    match decode w with
    | .ok i => exec i s
    | .error _ => .next (s.raise .illegalCommand)
  | _ => .next s

/-- One step. -/
def step (s : State) : Host.Outcome State Fault Refusal :=
  match s.events with
  | [] => engineTurn s
  | .engine :: rest => engineTurn (s.withEvents rest)
  | .write addr v :: rest => .next ((s.withEvents rest).busWrite addr v)
  | .read addr :: rest => .next ((s.withEvents rest).busRead addr)
  | .rstn :: rest => .next (s.withEvents rest).hardReset

/-- `s` with the command word `w` accepted and the engine's turn next (log 1): what the host's CMD write leaves
(R231). -/
def State.withFetchWord (s : State) (nbits w : Nat) : State :=
  (s.accept (BitVec.ofNat 32 (w % 2 ^ nbits))).withEvents (.engine :: s.events)

end Sys2Proof.Machine
end

