-- ==== Sys2Proof/Machine/Script.lean ====
section
/-! DEFINITION. The host-script statements (30_encoding.md R106, R107) as the events they stand for. -/

namespace Sys2Proof.Machine

/-- The id MEMSEL takes for a space (10_state.md R50). -/
def spaceId : SpaceId → Word
  | .dot => 0#32
  | .errtab => 1#32
  | .pvlut => 2#32
  | .raster => 3#32
  | .eb => 4#32
  | .print => 5#32
  | .preview => 6#32
  | .tally => 7#32

/-- A statement of R106 or a pseudo-statement of R107. -/
inductive Stmt where
  | command (i : Instr)
  | wr (r : Reg) (v : Word)
  | rd (r : Reg)
  | wait
  | memW (space : SpaceId) (index : Word) (values : List Word)
  | memR (space : SpaceId) (index : Word) (n : Nat)
  | run
  | setDim (inw inh outw outh : Nat)
  | setCfg (kernel : Nat) (in16 img16 rgb serp par : Bool) (channels threads : Nat)
  | tables (dotSize errSize : Nat)
  | rows (ch y0 y1 : Nat)
  deriving DecidableEq, Repr

/-- `WR reg, value` (R106). -/
def wrEvent (r : Reg) (v : Word) : Event := .write (regAddr r) v

/-- `RD reg` (R106). -/
def rdEvent (r : Reg) : Event := .read (regAddr r)

/-- A command statement writes its word to CMD (R106). -/
def commandEvent (i : Instr) : Event := wrEvent .cmd (encode i)

/-- `WAIT` (R106): the engine gets its turn and STATUS then reads BUSY = 0 (log 19). -/
def waitEvents : List Event := [.engine, rdEvent .status]

/-- The word `SETCFG` writes (R107). -/
def cfgWord (kernel : Nat) (in16 img16 rgb serp par : Bool) (channels threads : Nat) : Word :=
  BitVec.ofNat 32 (kernel + 32 * in16.toNat + 64 * img16.toNat + 128 * rgb.toNat + 256 * serp.toNat + 512 * par.toNat +
    65536 * channels + 16777216 * threads)

/-- What a statement expands to (R106, R107). -/
def Stmt.events : Stmt → List Event
  | .command i => [commandEvent i]
  | .wr r v => [wrEvent r v]
  | .rd r => [rdEvent r]
  | .wait => waitEvents
  | .memW space index values =>
    wrEvent .memSel (spaceId space) :: wrEvent .memAddr index :: values.map (wrEvent .memData)
  | .memR space index n =>
    wrEvent .memSel (spaceId space) :: wrEvent .memAddr index :: List.replicate n (rdEvent .memData)
  | .run =>
    commandEvent .init :: waitEvents ++ commandEvent .band :: waitEvents ++ commandEvent .endRun :: waitEvents
  | .setDim inw inh outw outh =>
    [wrEvent .inDim (BitVec.ofNat 32 (65536 * inh + inw)), wrEvent .outDim (BitVec.ofNat 32 (65536 * outh + outw))]
  | .setCfg kernel in16 img16 rgb serp par channels threads =>
    [wrEvent .config (cfgWord kernel in16 img16 rgb serp par channels threads)]
  | .tables dotSize errSize =>
    [wrEvent .dotSize (BitVec.ofNat 32 dotSize), wrEvent .errSize (BitVec.ofNat 32 errSize), wrEvent .lutCtl 3#32]
  | .rows ch y0 y1 =>
    (List.range (y1 + 1 - y0)).flatMap (fun i => commandEvent (.row ch (y0 + i)) :: waitEvents)

/-- A script's events, statement after statement. -/
def scriptEvents (script : List Stmt) : List Event := script.flatMap Stmt.events

end Sys2Proof.Machine
end

