-- ==== Sys2Proof/Safety.lean ====
section
/-! DEFINITION. What a safe state and a safe run are: the invariant the statements use, where a run starts, and the
vocabulary of the statements. -/

namespace Sys2Proof.Machine

/-- The run was latched by a successful INIT on some configuration (10_state.md R45,
40_catalog_and_run_control.md R134, R140). -/
def Run.latched (p : Config.Params) (r : Run) : Prop :=
  ∃ c : ConfigRegs, initError p c = none ∧ r = latchRun c

/-- CONFIG's reserved bits are 0 (R21, R27). -/
def ConfigRegs.reservedClear (c : ConfigRegs) : Prop := c.config &&& ~~~configMask = 0#32

/-- The invariant: the parameters are in R5's ranges; the memory is in canonical form; reserved bits are 0; no task
exists between commands (R46); an active run is a latched one (R26, R45). -/
structure State.Inv (s : State) : Prop where
  paramsOk : s.params.ok = true
  memWf : s.mem.wf = true
  reserved : s.cfg.reservedClear
  reservedAccepted : s.acceptedCfg.reservedClear
  noTask : s.task = .idle
  noJoin : s.finished = []
  runLatched : s.readyFlag = true → s.run.latched s.params

/-- Every listed byte of a space belongs to an element the space has (10_state.md R50). -/
def Space.within (p : Config.Params) (id : SpaceId) (sp : Space) : Prop :=
  ∀ cell ∈ sp.cells, cell.1 < capacity p id * elemBytes id

/-- Every listed byte of the memory belongs to an element that exists (R50, R77). -/
def Memory.within (p : Config.Params) (m : Memory) : Prop := ∀ id, (m.get id).within p id

/-- The machine of an implementation with parameters `p`, right after reset, before the events `es`. -/
def State.start (p : Config.Params) (es : List Event) : State := { State.reset with params := p, events := es }

/-- A command is taken in `s`: accepted now, or accepted before and being carried out, with the READY bit `ready` and
the configuration `c` at its acceptance (60_exceptions.md R231). -/
def State.takes (s : State) (ready : Bool) (c : ConfigRegs) : Prop :=
  (s.op = restingOp ready ∧ c = s.cfg) ∨ ∃ w, s.op = .busy ready w c

/-- The physical inks of the run's channels are pairwise distinct (10_state.md R31, 70_reset_and_hazards.md R274). -/
def Run.inksDistinct (r : Run) : Prop :=
  ∀ c d, c < r.c.toNat → d < r.c.toNat → r.inkOf c = r.inkOf d → c = d

/-- Commands carried out one after another, each from the state the one before left. -/
def execAll : List Instr → State → Result
  | [], s => .next s
  | i :: rest, s =>
    match exec i s with
    | .next t => execAll rest t
    | .fault e => .fault e
    | .refused e => .refused e

/-- The working registers at a pixel of the run: the work unit and the column are the run's, the bank is the row's
parity, the step is +1 or -1 (41_row_halftone.md R162, R163). -/
structure State.AtPixel (s : State) : Prop where
  fits : s.run.fits s.params = true
  chan : s.task.ch < s.run.c.toNat
  row : s.task.y < s.run.outh.toNat
  bank : s.task.b = s.task.y % 2
  step : s.task.step = 1 ∨ s.task.step = -1
  left : 0 ≤ s.task.x
  right : s.task.x < (s.run.outw.toNat : Int)

/-- A pattern that is neither infinite nor NaN (00_scope.md R10). -/
def f32Finite (p : F32) : Prop := f32Exp p ≠ 255

end Sys2Proof.Machine
end

