-- ==== Sys2Proof/Certificates/Slice0/Obligations.lean ====
section
/-! DEFINITION. The statements for the provers. Each says what a rule of spec/ says the EDHE does; the docstring
names the rule, and the log entry where a clause is the model's own choice. -/

open Sys2Proof Sys2Proof.Machine

/-! Encoding (30_encoding.md). -/

/-- Decode and encode agree on every well-formed command (R101, R102). -/
def Obligations.DecodeOfEncodeIsTheCommand : Prop :=
  ∀ i : Instr, i.wellFormed = true → decode (encode i) = .ok i

/-- No bit of a legal word is dropped: its command is well-formed and encodes to it (R100, R101). -/
def Obligations.EncodeOfDecodeIsTheWord : Prop :=
  ∀ (w : Word) (i : Instr), decode w = .ok i → i.wellFormed = true ∧ encode i = w

/-- R103: every word either selects one row of R102, the row of the command it decodes to, or is illegal. -/
def Obligations.EveryWordSelectsOneRowOrIsIllegal : Prop :=
  ∀ w : Word,
    (∃ i, decode w = .ok i ∧ matchingRows w = [i.mnemonic]) ∨ (∃ e, decode w = .error e ∧ matchingRows w = [])

/-- R104: which words are illegal, and that an accepted one raises IllegalCommand, code 0x41, at the engine's turn,
whether the turn comes from the event list or, with no event left, by itself. -/
def Obligations.IllegalWordsRaiseIllegalCommand : Prop :=
  (∀ w : Word, (∃ e, decode w = .error e) ↔
    (6 ≤ opField w ∨ (opField w ∈ [0, 1, 3, 4, 5] ∧ w.extractLsb' 0 24 ≠ 0#24) ∨
      (opField w = 2 ∧ w.extractLsb' 16 4 ≠ 0#4))) ∧
  (∀ w : Word, (∃ e, decode w = .error e) ↔ matchingRows w = []) ∧
  (∀ (s : State) (r : Bool) (w : Word) (c : ConfigRegs) (e : DecodeError),
    s.op = .busy r w c → decode w = .error e →
      (s.events = [] →
        step s = .next { s with op := .error .illegalCommand, irqPend := s.irqPend ||| 2#3 }) ∧
      (∀ rest, s.events = .engine :: rest →
        step s = .next { s with events := rest, op := .error .illegalCommand, irqPend := s.irqPend ||| 2#3 })) ∧
  ErrCode.illegalCommand.code = 0x41#8

/-- Words written out from R100 and R102 decode to the commands they stand for. -/
def Obligations.SpecWordsDecode : Prop :=
  decode 0x00000000#32 = .ok .nop ∧ decode 0x01000000#32 = .ok .init ∧ decode 0x02300005#32 = .ok (.row 3 5) ∧
  decode 0x02F0FFFF#32 = .ok (.row 15 65535) ∧ decode 0x03000000#32 = .ok .band ∧
  decode 0x04000000#32 = .ok .endRun ∧ decode 0x05000000#32 = .ok .clrerr

/-! One step, and what a command write does (60_exceptions.md). -/

/-- When the engine holds an accepted word that decodes to `i` (R231, R232), its turn is `exec i`, whether the turn comes
from the event list or, with no event left, by itself; an engine that is not BUSY does nothing (R248). The form of a step is
the model's (logs 1 and 2). -/
def Obligations.StepRunsTheAcceptedCommand : Prop :=
  (∀ (s : State) (r : Bool) (w : Word) (c : ConfigRegs) (i : Instr),
    s.op = .busy r w c → decode w = .ok i →
      (s.events = [] → step s = exec i s) ∧
      (∀ rest, s.events = .engine :: rest → step s = exec i { s with events := rest })) ∧
  ∀ s : State, s.busyFlag = false →
    (s.events = [] → step s = .next s) ∧
    (∀ rest, s.events = .engine :: rest → step s = .next { s with events := rest })

/-- R231, R241: a write of `v` to CMD, by operating state. What the engine keeps of an accepted command (the word and
the configuration, log 3) and that ERR reads 0 while CLRERR is carried out (log 4) are the model's. -/
def Obligations.CmdWriteFollowsTheOperatingState : Prop :=
  ∀ (s : State) (v : Word) (rest : List Event), s.events = .write (regAddr .cmd) v :: rest →
    (∀ r w c, s.op = .busy r w c → step s = .next { s with events := rest, irqPend := s.irqPend ||| 4#3 }) ∧
    (∀ e, s.op = .error e → v = 0x05000000#32 →
      step s = .next { s with events := rest, op := .busy false v s.cfg }) ∧
    (∀ e, s.op = .error e → v ≠ 0x05000000#32 →
      step s = .next { s with events := rest, irqPend := s.irqPend ||| 4#3 }) ∧
    (s.op = .idle → step s = .next { s with events := rest, op := .busy false v s.cfg }) ∧
    (s.op = .ready → step s = .next { s with events := rest, op := .busy true v s.cfg })

/-- R236, R237: whatever raises an error, the error's code is recorded, READY and BUSY are 0, ERRV is set, DONE is
not, and nothing else changes: no register, no field of `run`, no memory. -/
def Obligations.RaisedErrorsChangeNoData : Prop :=
  ∀ (s t : State) (e : ErrCode), s.errFlag = false → step s = .next t → t.op = .error e →
    t = { s with events := s.events.tail, op := .error e, irqPend := s.irqPend ||| 2#3 } ∧
    t.status = (e.code.setWidth 32) <<< 8 ||| 4#32

/-- R238: while ERR = 1 the code stays, until CLRERR is accepted (R231, R236) or a reset happens (R260, R262). That ERR
and ERRCODE read 0 as soon as CLRERR is accepted (log 4) and that the accepted command keeps a copy of the configuration
(log 3) are the model's. -/
def Obligations.ErrorStaysUntilClrerrOrReset : Prop :=
  ∀ (s t : State) (e : ErrCode), s.op = .error e → step s = .next t →
    t.op = .error e ∨
    (s.events.head? = some (.write (regAddr .cmd) 0x05000000#32) ∧ t.op = .busy false 0x05000000#32 s.cfg) ∨
    (s.events.head? = some .rstn ∧ t.op = .idle) ∨
    (∃ v : Word, s.events.head? = some (.write (regAddr .ctrl) v) ∧ v.getLsbD 0 = true ∧ t.op = .idle)

/-- R26, R41: STATUS is 0 in IDLE, 2 in READY, 1 or 3 in BUSY by the READY bit at acceptance, and in ERROR the code of
R233 in bits 15:8 with ERR; its bits are the flags, its reserved bits are 0, and ERR = 1 implies BUSY = 0 and READY = 0. -/
def Obligations.StatusShowsTheOperatingState : Prop :=
  (∀ s : State,
    (s.op = .idle → s.status = 0#32) ∧ (s.op = .ready → s.status = 2#32) ∧
    (∀ w c, s.op = .busy false w c → s.status = 1#32) ∧ (∀ w c, s.op = .busy true w c → s.status = 3#32) ∧
    (s.op = .error .invalidKernelIndex → s.status = 0x1104#32) ∧
    (s.op = .error .incompatibleBitDepth → s.status = 0x1204#32) ∧
    (s.op = .error .missingLookupTable → s.status = 0x1304#32) ∧
    (s.op = .error .allocationError → s.status = 0x2104#32) ∧
    (s.op = .error .bufferBoundsExceeded → s.status = 0x3104#32) ∧
    (s.op = .error .illegalCommand → s.status = 0x4104#32) ∧
    (s.op = .error .noActiveRun → s.status = 0x4204#32)) ∧
  ∀ s : State,
    s.status.getLsbD 0 = s.busyFlag ∧ s.status.getLsbD 1 = s.readyFlag ∧ s.status.getLsbD 2 = s.errFlag ∧
    s.status.extractLsb' 3 5 = 0#5 ∧ s.status.extractLsb' 8 8 = s.errCode ∧ s.status.extractLsb' 16 16 = 0#16 ∧
    (s.errFlag = true → s.busyFlag = false ∧ s.readyFlag = false) ∧
    (s.errFlag = false → s.errCode = 0#8) ∧
    (s.errFlag = true → s.errCode ∈ [0x11#8, 0x12#8, 0x13#8, 0x21#8, 0x31#8, 0x41#8, 0x42#8])

/-- R26, R41: READY becomes 1 by the completion of a successful INIT and by nothing else. -/
def Obligations.ReadyIsSetByInitAlone : Prop :=
  ∀ s t : State, s.readyFlag = false → step s = .next t → t.readyFlag = true →
    ∃ c, s.op = .busy false 0x01000000#32 c ∧ initError s.params c = none

/-- R45, R60: a step that changes `run` either carries out a successful INIT, which latches it, or is a hardware reset or
a soft reset, which zeroes it. -/
def Obligations.RunChangesOnlyByInitOrReset : Prop :=
  ∀ s t : State, step s = .next t → t.run ≠ s.run →
    (t.run = Run.zero ∧
      (s.events.head? = some .rstn ∨
        ∃ v : Word, s.events.head? = some (.write (regAddr .ctrl) v) ∧ v.getLsbD 0 = true)) ∨
    ∃ r c, s.op = .busy r 0x01000000#32 c ∧ initError s.params c = none ∧ t.run = latchRun c

/-- The engine's turn always ends BUSY. R279 says that an accepted command completes or raises after a finite time; that one
turn carries the whole command out is the model's (log 2, deduced from R16). -/
def Obligations.EngineTurnEndsBusy : Prop :=
  ∀ s t : State, engineTurn s = .next t → t.busyFlag = false

/-- R21, R45, R140: a configuration register written while a command runs does not affect that command (log 3). -/
def Obligations.ConfigWritesDoNotDisturbTheRunningCommand : Prop :=
  ∀ (i : Instr) (s t : State) (c : ConfigRegs), s.busyFlag = true → exec i s = .next t →
    exec i { s with cfg := c } = .next { t with cfg := c }

/-- R81: which memory spaces a command may change. -/
def Obligations.CommandsChangeOnlyTheirSpaces : Prop :=
  (∀ s t, exec .nop s = .next t → t.mem = s.mem) ∧
  (∀ s t, exec .clrerr s = .next t → t.mem = s.mem) ∧
  (∀ s t, exec .init s = .next t → ∀ id, id ≠ .eb → id ≠ .tally → t.mem.get id = s.mem.get id) ∧
  (∀ s t, exec .endRun s = .next t → ∀ id, id ≠ .eb → t.mem.get id = s.mem.get id) ∧
  (∀ i s t, exec i s = .next t → t.mem.dot = s.mem.dot ∧ t.mem.errtab = s.mem.errtab ∧ t.mem.pvlut = s.mem.pvlut ∧
    t.mem.raster = s.mem.raster)

/-! The commands that control a run (40_catalog_and_run_control.md, 60_exceptions.md). -/

/-- R145: NOP sets DONE and leaves the operating state; in ERROR it is not accepted. -/
def Obligations.NopSetsDoneAlone : Prop :=
  (∀ (s : State) (r : Bool) (c : ConfigRegs), s.takes r c →
    exec .nop s = .next { s with
      op := restingOp r, irqPend := s.irqPend ||| 1#3, task := .idle, finished := [] }) ∧
  (∀ (s : State) (e : ErrCode), s.op = .error e → exec .nop s = .next { s with irqPend := s.irqPend ||| 4#3 })

/-- R146: END clears READY, sets DONE and leaves every byte of EB a free value (U2, log 8), all else kept; without a
run it raises NoActiveRun; in ERROR it is not accepted. -/
def Obligations.EndDiscardsTheErrorBuffer : Prop :=
  (∀ (s : State) (c : ConfigRegs), s.takes true c → ∃ t,
    exec .endRun s = .next t ∧
    t = { s with op := .idle, irqPend := s.irqPend ||| 1#3, task := .idle, finished := [], draws := s.draws + 1,
                 mem := t.mem } ∧
    (∀ a, t.mem.eb.readByte .eb a = Config.freeByte s.draws .eb a) ∧
    (∀ id, id ≠ .eb → t.mem.get id = s.mem.get id)) ∧
  (∀ (s : State) (c : ConfigRegs), s.takes false c →
    exec .endRun s = .next { s with op := .error .noActiveRun, irqPend := s.irqPend ||| 2#3 }) ∧
  (∀ (s : State) (e : ErrCode), s.op = .error e → exec .endRun s = .next { s with irqPend := s.irqPend ||| 4#3 })

/-- R240: CLRERR clears ERR and ERRCODE and sets DONE; from ERROR the state becomes IDLE; in IDLE and READY it changes
nothing but DONE; ERRV is not cleared. -/
def Obligations.ClrerrLeavesTheErrorState : Prop :=
  (∀ (s : State) (e : ErrCode), s.op = .error e →
    exec .clrerr s = .next { s with op := .idle, irqPend := s.irqPend ||| 1#3, task := .idle, finished := [] }) ∧
  (∀ (s : State) (r : Bool) (c : ConfigRegs), s.takes r c →
    exec .clrerr s = .next { s with
      op := restingOp r, irqPend := s.irqPend ||| 1#3, task := .idle, finished := [] })

/-- R134, R136, R141, R142, R144: when its four checks pass, INIT completes: it latches the run, sets READY and DONE,
makes every element of EB and TALLY 0, and touches no other space. That the working registers are idle afterwards is the
model's (log 16). -/
def Obligations.InitStartsARun : Prop :=
  ∀ (s : State) (r : Bool) (c : ConfigRegs) (kh : Nat), s.takes r c →
    kernelHeight c.kernel.toNat = some kh →
    ¬ (c.in16 = false ∧ c.img16 = true) →
    c.dotValid = true → c.dotSize.toNat = (if c.in16 || c.rgb then 65536 else 256) →
    c.errValid = true → c.errSize.toNat = (if c.in16 || c.rgb then 65536 else 256) * (7 * kh) →
    1 ≤ c.channels.toNat → c.channels.toNat ≤ 16 →
    1 ≤ c.inw.toNat → 1 ≤ c.inh.toNat → 1 ≤ c.outw.toNat → 1 ≤ c.outh.toNat →
    c.outw.toNat ≤ s.params.ebMaxW → c.outw.toNat * c.outh.toNat ≤ s.params.pbMaxPix →
    c.inw.toNat * c.inh.toNat * c.channels.toNat ≤ s.params.rasterMax →
    ∃ t, exec .init s = .next t ∧
      t = { s with op := .ready, irqPend := s.irqPend ||| 1#3, run := latchRun c, mem := t.mem, task := .idle,
                   finished := [] } ∧
      (∀ i, t.mem.readElem .eb i = 0#32) ∧ (∀ i, t.mem.readElem .tally i = 0#32) ∧
      (∀ id, id ≠ .eb → id ≠ .tally → t.mem.get id = s.mem.get id)

/-- R135, R137, R138: the depths, the effective hysteresis (replaced, not clamped) and the noise range a successful INIT
latches, as numbers: no field is cut by its width, and 16-bit samples imply the 16-bit working depth. And, of R45 and R140,
the fields it copies, each from its bits of the configuration registers (R27 to R32). -/
def Obligations.InitLatchesTheDerivedValues : Prop :=
  (∀ (p : Config.Params) (c : ConfigRegs), initError p c = none →
    (latchRun c).w16 = (c.in16 || c.rgb) ∧ (latchRun c).s16 = (c.img16 || c.rgb) ∧
    ((latchRun c).s16 = true → (latchRun c).w16 = true) ∧
    (latchRun c).m.toNat = (if c.in16 || c.rgb then 65535 else 255) ∧
    (latchRun c).nscl.toNat = (if c.in16 || c.rgb then 257 else 1) ∧
    kernelHeight c.kernel.toNat = some (latchRun c).kh.toNat ∧ (latchRun c).ks.toNat = 7 * (latchRun c).kh.toNat ∧
    (0 ≤ c.hyst.toInt → c.hyst.toInt ≤ 1000 → (latchRun c).h.toNat = c.hyst.toNat) ∧
    (c.hyst.toInt < 0 ∨ 1000 < c.hyst.toInt → (latchRun c).h.toNat = 150) ∧
    (latchRun c).nrs.toNat = (4000 + 24 * (latchRun c).h.toNat) * (latchRun c).nscl.toNat / 1000 + 1 ∧
    (latchRun c).nrf.toNat = (4000 + 24 * (latchRun c).h.toNat) * (latchRun c).nscl.toNat / 1000 / 2 ∧
    4 ≤ (4000 + 24 * (latchRun c).h.toNat) * (latchRun c).nscl.toNat / 1000 ∧
    (4000 + 24 * (latchRun c).h.toNat) * (latchRun c).nscl.toNat / 1000 ≤ 7196) ∧
  ∀ c : ConfigRegs,
    c.in16 = c.config.getLsbD 5 ∧ c.img16 = c.config.getLsbD 6 ∧ c.rgb = c.config.getLsbD 7 ∧
    c.kernel = c.config.extractLsb' 0 5 ∧
    (latchRun c).k = c.config.extractLsb' 0 5 ∧ (latchRun c).serp = c.config.getLsbD 8 ∧
    (latchRun c).par = c.config.getLsbD 9 ∧ (latchRun c).c = c.config.extractLsb' 16 5 ∧
    (latchRun c).threads = c.config.extractLsb' 24 8 ∧ (latchRun c).dotLevels = c.dotLevels ∧
    (∀ ch, ch < 8 → (latchRun c).inkOf ch = (c.inkOrd0.extractLsb' (4 * ch) 4).toNat) ∧
    (∀ ch, 8 ≤ ch → ch < 16 → (latchRun c).inkOf ch = (c.inkOrd1.extractLsb' (4 * (ch - 8)) 4).toNat) ∧
    (latchRun c).inw = c.inDim.extractLsb' 0 16 ∧ (latchRun c).inh = c.inDim.extractLsb' 16 8 ∧
    (latchRun c).outw = c.outDim.extractLsb' 0 16 ∧ (latchRun c).outh = c.outDim.extractLsb' 16 16 ∧
    (latchRun c).seed = c.seed

/-- R139: the latched steps, and that every output position falls inside the input. -/
def Obligations.LatchedStepsStayInsideTheInput : Prop :=
  ∀ (p : Config.Params) (c : ConfigRegs), initError p c = none →
    (latchRun c).xstep.toNat = c.inw.toNat * 65536 / c.outw.toNat ∧
    (latchRun c).ystep.toNat = c.inh.toNat * 65536 / c.outh.toNat ∧
    (∀ x, x < c.outw.toNat → gridBase x (latchRun c).xstep.toNat ≤ c.inw.toNat - 1) ∧
    (∀ y, y < c.outh.toNat → gridBase y (latchRun c).ystep.toNat ≤ c.inh.toNat - 1)

/-- R134, R245: the first of INIT's checks that fails decides the error; the four codes are those of R233. -/
def Obligations.InitRaisesTheFirstFailingCheck : Prop :=
  ∀ (s : State) (r : Bool) (c : ConfigRegs), s.takes r c →
    (16 < c.kernel.toNat → exec .init s = .next (s.raise .invalidKernelIndex)) ∧
    (∀ kh, kernelHeight c.kernel.toNat = some kh → c.in16 = false → c.img16 = true →
      exec .init s = .next (s.raise .incompatibleBitDepth)) ∧
    (∀ kh, kernelHeight c.kernel.toNat = some kh → ¬ (c.in16 = false ∧ c.img16 = true) →
      (c.dotValid = false ∨ c.errValid = false ∨
        c.dotSize.toNat ≠ (if c.in16 || c.rgb then 65536 else 256) ∨
        c.errSize.toNat ≠ (if c.in16 || c.rgb then 65536 else 256) * (7 * kh)) →
      exec .init s = .next (s.raise .missingLookupTable)) ∧
    (∀ kh, kernelHeight c.kernel.toNat = some kh → ¬ (c.in16 = false ∧ c.img16 = true) →
      tablesOk c kh = true →
      (c.channels.toNat = 0 ∨ 16 < c.channels.toNat ∨ c.inw.toNat = 0 ∨ c.inh.toNat = 0 ∨ c.outw.toNat = 0 ∨
        c.outh.toNat = 0 ∨ s.params.ebMaxW < c.outw.toNat ∨ s.params.pbMaxPix < c.outw.toNat * c.outh.toNat ∨
        s.params.rasterMax < c.inw.toNat * c.inh.toNat * c.channels.toNat) →
      exec .init s = .next (s.raise .allocationError)) ∧
    ErrCode.invalidKernelIndex.code = 0x11#8 ∧ ErrCode.incompatibleBitDepth.code = 0x12#8 ∧
    ErrCode.missingLookupTable.code = 0x13#8 ∧ ErrCode.allocationError.code = 0x21#8

/-- R130, R131: the catalog's seventeen heights, none beyond, and `kernelSize`. -/
def Obligations.CatalogHoldsSeventeenHeights : Prop :=
  (List.range 17).map kernelHeight
    = [2, 2, 3, 3, 3, 2, 2, 2, 2, 3, 3, 3, 3, 3, 4, 4, 2].map some ∧
  (∀ k, 17 ≤ k → kernelHeight k = none) ∧ (∀ kh, kernelSize kh = kh * 7)

/-- R186: every index the row processor and the output encoder form for a pixel of a run that a successful INIT latched is
below the capacity R77 gives its space: the four RASTER samples, DOT and ERRTAB at every quantised intensity, the EB cells
of the run, PRINT, PREVIEW and TALLY. So the guard of ROW and BAND (the model's, log 13) is met. -/
def Obligations.LatchedRunFitsTheSpaces : Prop :=
  ∀ (p : Config.Params) (r : Run), r.latched p →
    (∀ x y ch xi yi, x < r.outw.toNat → y < r.outh.toNat → ch < r.c.toNat →
      (xi = x * r.xstep.toNat / 65536 ∨ xi = min (x * r.xstep.toNat / 65536 + 1) (r.inw.toNat - 1)) →
      (yi = y * r.ystep.toNat / 65536 ∨ yi = min (y * r.ystep.toNat / 65536 + 1) (r.inh.toNat - 1)) →
      xi < r.inw.toNat ∧ yi < r.inh.toNat ∧ rasterIndex r xi yi ch = (yi * r.inw.toNat + xi) * r.c.toNat + ch ∧
      (yi * r.inw.toNat + xi) * r.c.toNat + ch < p.rasterMax) ∧
    (∀ (a : F32) (q : Nat), q = quant a r.m.toNat →
      q < 65536 ∧ ∀ kr slot, kr < r.kh.toNat → slot < 7 →
        errIndex r q kr slot = q * r.ks.toNat + kr * 7 + slot ∧ q * r.ks.toNat + kr * 7 + slot < 1835008) ∧
    (∀ b kr ch col, b < 2 → kr < r.kh.toNat → ch < r.c.toNat → col < r.outw.toNat →
      ebIndex p b kr ch col = ((b * 4 + kr) * 16 + ch) * p.ebMaxW + col ∧
      ((b * 4 + kr) * 16 + ch) * p.ebMaxW + col < 128 * p.ebMaxW) ∧
    (∀ x y ch, x < r.outw.toNat → y < r.outh.toNat → ch < r.c.toNat →
      printIndex p r (r.inkOf ch) x y = r.inkOf ch * p.pbMaxPix + y * r.outw.toNat + x ∧
      r.inkOf ch * p.pbMaxPix + y * r.outw.toNat + x < 16 * p.pbMaxPix ∧
      previewIndex r x y ch = (y * r.outw.toNat + x) * r.c.toNat + ch ∧
      (y * r.outw.toNat + x) * r.c.toNat + ch < 16 * p.pbMaxPix) ∧
    (∀ (ch : Nat) (dot : Byte),
      dot.toNat < 256 ∧ tallyIndex (r.inkOf ch) dot.toNat = r.inkOf ch * 256 + dot.toNat ∧
      r.inkOf ch * 256 + dot.toNat < 4096) ∧
    r.fits p = true

/-! The row processor (41_row_halftone.md, 43_output_encoder.md). -/

/-- R161: the checks of ROW in their order; OUTDIM.OUTW is taken as it was at acceptance (D37). -/
def Obligations.RowRaisesTheFirstFailingCheck : Prop :=
  ∀ (s : State) (ch y : Nat) (r : Bool) (c : ConfigRegs), s.takes r c →
    (r = false → exec (.row ch y) s = .next (s.raise .noActiveRun)) ∧
    (r = true → s.run.c.toNat ≤ ch ∨ s.run.outh.toNat ≤ y →
      exec (.row ch y) s = .next (s.raise .illegalCommand)) ∧
    (r = true → ch < s.run.c.toNat → y < s.run.outh.toNat → c.outw ≠ s.run.outw →
      exec (.row ch y) s = .next (s.raise .bufferBoundsExceeded)) ∧
    ErrCode.noActiveRun.code = 0x42#8 ∧ ErrCode.illegalCommand.code = 0x41#8 ∧
    ErrCode.bufferBoundsExceeded.code = 0x31#8

/-- R160, R184: ROW completes; what it leaves in every space but TALLY is what `RowProcess` of its work unit leaves; and it
changes only the EB cells of its bank and channel, the PRINT elements of its ink and row, the PREVIEW elements of its row and
channel, the TALLY counters of its ink, DONE and the draw counter. -/
def Obligations.RowTouchesItsOwnCellsAlone : Prop :=
  ∀ (s : State) (ch y : Nat) (c : ConfigRegs), s.takes true c → s.run.fits s.params = true →
    ch < s.run.c.toNat → y < s.run.outh.toNat → c.outw = s.run.outw →
    ∃ t, exec (.row ch y) s = .next t ∧
      t = { s with op := .ready, irqPend := s.irqPend ||| 1#3, mem := t.mem, task := .idle, finished := [],
                   draws := s.draws + 1 } ∧
      t.mem.dot = s.mem.dot ∧ t.mem.errtab = s.mem.errtab ∧ t.mem.pvlut = s.mem.pvlut ∧ t.mem.raster = s.mem.raster ∧
      (∀ a, (∀ kr col, kr < s.run.kh.toNat → col < s.run.outw.toNat →
          a / 4 ≠ ebIndex s.params (y % 2) kr ch col) →
        t.mem.eb.readByte .eb a = s.mem.eb.readByte .eb a) ∧
      (∀ a, (∀ x, x < s.run.outw.toNat → a ≠ printIndex s.params s.run (s.run.inkOf ch) x y) →
        t.mem.print.readByte .print a = s.mem.print.readByte .print a) ∧
      (∀ a, (∀ x, x < s.run.outw.toNat → a ≠ previewIndex s.run x y ch) →
        t.mem.preview.readByte .preview a = s.mem.preview.readByte .preview a) ∧
      (∀ a, (∀ d, d < 256 → a / 4 ≠ tallyIndex (s.run.inkOf ch) d) →
        t.mem.tally.readByte .tally a = s.mem.tally.readByte .tally a) ∧
      (∀ id, id ≠ .tally → t.mem.get id = (rowProcess (ch, y) s).mem.get id)

/-- R162, R163, R170, R174, R175: a work unit is its setup and then OUTW pixels, each steps 1 to 7 in order and the move
to the next column; what the setup, step 2, the quantisation, step 4 and the move do, and that each changes nothing else. -/
def Obligations.WorkUnitIsItsSetupAndItsPixels : Prop :=
  (∀ (s : State) (ch y : Nat),
    (setupUnit (ch, y) s).task.ch = ch ∧ (setupUnit (ch, y) s).task.y = y ∧
    (setupUnit (ch, y) s).task.b = y % 2 ∧ (setupUnit (ch, y) s).task.avg = 0 ∧
    (s.run.serp = true → y % 2 = 1 →
      (setupUnit (ch, y) s).task.step = -1 ∧ (setupUnit (ch, y) s).task.x = (s.run.outw.toNat : Int) - 1) ∧
    (s.run.serp = false ∨ y % 2 = 0 →
      (setupUnit (ch, y) s).task.step = 1 ∧ (setupUnit (ch, y) s).task.x = 0) ∧
    (setupUnit (ch, y) s).task.tally = s.task.tally ∧
    setupUnit (ch, y) s = { s with task := (setupUnit (ch, y) s).task }) ∧
  (∀ s : State, pixelAddError s = { s with task := { s.task with
    a := fadd32 (f32Fix8 s.task.v8) (s.mem.readElem .eb
      (((s.task.b * 4 + 0) * 16 + s.task.ch) * s.params.ebMaxW + s.task.x.toNat)) } }) ∧
  (∀ s : State, pixelQuantise s = { s with task := { s.task with q := quant s.task.a s.run.m.toNat } } ∧
    (pixelQuantise s).task.q ≤ s.run.m.toNat) ∧
  (∀ s : State, pixelDot s = { s with task := { s.task with
    dot := (s.mem.readElem .dot s.task.q).setWidth 8 } }) ∧
  (∀ s : State, pixelAdvance s = { s with task := { s.task with x := s.task.x + s.task.step } }) ∧
  (∀ (s : State) (u : WorkUnit),
    rowProcess u s = Nat.iterate (fun t => pixelAdvance (pixelEmit (pixelShift (pixelDiffuse (pixelDot (pixelQuantise
      (pixelNoise (pixelAddError (pixelResample t))))))))) s.run.outw.toNat (setupUnit u s)) ∧
  (∀ (s : State) (n : Nat),
    (Nat.iterate (fun t => pixelAdvance (pixelEmit (pixelShift (pixelDiffuse (pixelDot (pixelQuantise
      (pixelNoise (pixelAddError (pixelResample t))))))))) n s).task.x = s.task.x + (n : Int) * s.task.step)

/-- R165 to R169: step 1, written out: the coordinates and weights of the output row and column, the four samples, their
two-stage bilinear sum rounded half up, and its clamp. The clamp changes nothing in a run whose greatest intensity is that
of its depths, for no sample is above it and the four weights sum to 65536. -/
def Obligations.ResampleNeedsNoClamp : Prop :=
  (∀ M s00 s10 s01 s11 wx wy : Nat, s00 ≤ M → s10 ≤ M → s01 ≤ M → s11 ≤ M → wx < 256 → wy < 256 →
    (bilinear s00 s10 s01 s11 wx wy + 128) / 256 ≤ 256 * M) ∧
  ∀ s : State,
    let py := s.task.y * s.run.ystep.toNat
    let y0 := py / 65536
    let wy := py / 256 % 256
    let y1 := min (y0 + 1) (s.run.inh.toNat - 1)
    let px := s.task.x.toNat * s.run.xstep.toNat
    let x0 := px / 65536
    let wx := px / 256 % 256
    let x1 := min (x0 + 1) (s.run.inw.toNat - 1)
    let S := fun xi yi : Nat =>
      let raw := (s.mem.readElem .raster ((yi * s.run.inw.toNat + xi) * s.run.c.toNat + s.task.ch)).toNat
      if s.run.s16 = true then raw % 65536 else if s.run.w16 = true then raw % 256 * 257 else raw % 256
    let top := S x0 y0 * (256 - wx) + S x1 y0 * wx
    let bot := S x0 y1 * (256 - wx) + S x1 y1 * wx
    let v8 := (top * (256 - wy) + bot * wy + 128) / 256
    pixelResample s = { s with task := { s.task with v8 := min v8 (256 * s.run.m.toNat) } } ∧
    (s.run.m.toNat = (if s.run.w16 = true then 65535 else 255) → (s.run.s16 = true → s.run.w16 = true) →
      (∀ xi yi, S xi yi ≤ s.run.m.toNat) ∧ v8 ≤ 256 * s.run.m.toNat ∧
      pixelResample s = { s with task := { s.task with v8 := v8 } })

/-- R168: on the grid of the input the resampled value is the sample itself. -/
def Obligations.ResampleOnTheGridIsTheSample : Prop :=
  ∀ (s : State) (x y ch : Nat), s.run.m.toNat = maxPixel s.run.w16 → (s.run.s16 = true → s.run.w16 = true) →
    gridWeight x s.run.xstep.toNat = 0 → gridWeight y s.run.ystep.toNat = 0 →
    resample s x y ch = 256 * fetchSample s (gridBase x s.run.xstep.toNat) (gridBase y s.run.ystep.toNat) ch

/-- R171, R173: step 3 is inactive when the resampled intensity or the hysteresis is 0, and then changes nothing; when
active it moves the average and adds the noise of SOME draw of the draw's set, whatever the generator (log 9). -/
def Obligations.StepThreeAddsADrawOfItsSet : Prop :=
  (∀ s : State, s.task.v8 = 0 ∨ s.run.h = 0#10 → pixelNoise s = s) ∧
  (∀ s : State, 0 < s.task.v8 → s.run.h ≠ 0#10 → 0 < s.run.nrs.toNat →
    ∃ u : Int, -(s.run.nrf.toNat : Int) ≤ u ∧ u < (s.run.nrs.toNat : Int) - s.run.nrf.toNat ∧
      pixelNoise s = { s with task := { s.task with
        avg := (s.task.avg + s.task.v8) / 2
        a := fadd32 s.task.a (f32Fix8 (tdiv
          (u * (256 * (s.run.m.toNat : Int)
            - |(((s.task.avg + s.task.v8) / 2 : Nat) : Int) - (s.task.v8 : Int)|)) s.run.m.toNat)) } })

/-- R176, R177: diffusion adds the table row's entry to each target inside the row, whatever the scan direction, and
changes no other byte and nothing else. The cells are named by their EB element (R55). -/
def Obligations.DiffusionAddsTheTableRow : Prop :=
  ∀ s : State, s.AtPixel →
    (∀ (kr slot : Nat) (target : Int), kr < s.run.kh.toNat → slot < 7 →
      target = s.task.x + ((slot : Int) - 3) * s.task.step → 0 ≤ target → target < (s.run.outw.toNat : Int) →
      (pixelDiffuse s).mem.readElem .eb
          (((s.task.b * 4 + kr) * 16 + s.task.ch) * s.params.ebMaxW + target.toNat) =
        fadd32
          (s.mem.readElem .eb (((s.task.b * 4 + kr) * 16 + s.task.ch) * s.params.ebMaxW + target.toNat))
          (s.mem.readElem .errtab (s.task.q * s.run.ks.toNat + kr * 7 + slot))) ∧
    (∀ a, (∀ (kr slot : Nat) (target : Int), kr < s.run.kh.toNat → slot < 7 →
        target = s.task.x + ((slot : Int) - 3) * s.task.step → 0 ≤ target → target < (s.run.outw.toNat : Int) →
        a / 4 ≠ ((s.task.b * 4 + kr) * 16 + s.task.ch) * s.params.ebMaxW + target.toNat) →
      (pixelDiffuse s).mem.eb.readByte .eb a = s.mem.eb.readByte .eb a) ∧
    (∀ id, id ≠ .eb → (pixelDiffuse s).mem.get id = s.mem.get id) ∧
    pixelDiffuse s = { s with mem := (pixelDiffuse s).mem }

/-- R178: the shift moves the column up one kernel row, zeroes the last kernel row, and changes no other byte and
nothing else. The cells are named by their EB element (R55). -/
def Obligations.ShiftMovesTheColumnUp : Prop :=
  ∀ s : State, s.AtPixel →
    (∀ kr, kr + 1 < s.run.kh.toNat →
      (pixelShift s).mem.readElem .eb
          (((s.task.b * 4 + kr) * 16 + s.task.ch) * s.params.ebMaxW + s.task.x.toNat) =
        s.mem.readElem .eb (((s.task.b * 4 + (kr + 1)) * 16 + s.task.ch) * s.params.ebMaxW + s.task.x.toNat)) ∧
    (pixelShift s).mem.readElem .eb
        (((s.task.b * 4 + (s.run.kh.toNat - 1)) * 16 + s.task.ch) * s.params.ebMaxW + s.task.x.toNat) = 0#32 ∧
    (∀ a, (∀ kr, kr < s.run.kh.toNat →
        a / 4 ≠ ((s.task.b * 4 + kr) * 16 + s.task.ch) * s.params.ebMaxW + s.task.x.toNat) →
      (pixelShift s).mem.eb.readByte .eb a = s.mem.eb.readByte .eb a) ∧
    (∀ id, id ≠ .eb → (pixelShift s).mem.get id = s.mem.get id) ∧
    pixelShift s = { s with mem := (pixelShift s).mem }

/-- R220 to R224: the emit writes the dot code by physical ink, the preview byte by logical channel, adds one to its
task-local counter, and changes no other byte, no other counter and nothing else. -/
def Obligations.EmitWritesPrintPreviewAndTally : Prop :=
  ∀ s : State,
    (pixelEmit s).mem.readElem .print
        (s.run.inkOf s.task.ch * s.params.pbMaxPix + s.task.y * s.run.outw.toNat + s.task.x.toNat) =
      s.task.dot.setWidth 32 ∧
    (pixelEmit s).mem.readElem .preview
        ((s.task.y * s.run.outw.toNat + s.task.x.toNat) * s.run.c.toNat + s.task.ch) =
      s.mem.readElem .pvlut s.task.dot.toNat ∧
    (∀ a, a ≠ s.run.inkOf s.task.ch * s.params.pbMaxPix + s.task.y * s.run.outw.toNat + s.task.x.toNat →
      (pixelEmit s).mem.print.readByte .print a = s.mem.print.readByte .print a) ∧
    (∀ a, a ≠ (s.task.y * s.run.outw.toNat + s.task.x.toNat) * s.run.c.toNat + s.task.ch →
      (pixelEmit s).mem.preview.readByte .preview a = s.mem.preview.readByte .preview a) ∧
    (∀ id, id ≠ .print → id ≠ .preview → (pixelEmit s).mem.get id = s.mem.get id) ∧
    (∀ j, tallyAt j (pixelEmit s).task.tally =
      if j = s.run.inkOf s.task.ch * 256 + s.task.dot.toNat then tallyAt j s.task.tally + 1#32
      else tallyAt j s.task.tally) ∧
    pixelEmit s = { s with
      mem := (pixelEmit s).mem, task := { s.task with tally := (pixelEmit s).task.tally } }

/-- R183: a row whose every fetched sample is 0, over a zero error row and a zero table row, prints `DOT[0]` at every
pixel. -/
def Obligations.AllZeroRowPrintsDotZero : Prop :=
  ∀ (s : State) (ch y : Nat) (c : ConfigRegs), s.takes true c → s.run.fits s.params = true →
    ch < s.run.c.toNat → y < s.run.outh.toNat → c.outw = s.run.outw →
    (∀ x xi yi, x < s.run.outw.toNat →
      (xi = x * s.run.xstep.toNat / 65536 ∨ xi = min (x * s.run.xstep.toNat / 65536 + 1) (s.run.inw.toNat - 1)) →
      (yi = y * s.run.ystep.toNat / 65536 ∨ yi = min (y * s.run.ystep.toNat / 65536 + 1) (s.run.inh.toNat - 1)) →
      fetchSample s xi yi ch = 0) →
    (∀ col, col < s.run.outw.toNat →
      s.ebCell (y % 2) 0 ch col = 0#32 ∨ s.ebCell (y % 2) 0 ch col = 0x80000000#32) →
    (∀ j, j < s.run.ks.toNat → s.mem.readElem .errtab j = 0#32 ∨ s.mem.readElem .errtab j = 0x80000000#32) →
    ∃ t, exec (.row ch y) s = .next t ∧
      ∀ x, x < s.run.outw.toNat →
        t.mem.readElem .print (printIndex s.params s.run (s.run.inkOf ch) x y) = s.mem.readElem .dot 0

/-- R224, R225: the merge adds to each counter `TALLY[j]`, modulo 2^32, what every waiting task counted under `j`, and
changes no other space (a task's tally lists a counter at most once). So ROW adds to `TALLY[k*256 + d]` the number of
pixels of its row it printed `d` at on ink `k`, if `k` is its channel's ink, and 0 else: one dot per pixel in all; and BAND
with distinct inks adds the number of pixels of the run it printed `d` at on ink `k`. -/
def Obligations.TalliesCountThePrintedDots : Prop :=
  (∀ s : State, (∀ l ∈ s.finished, (l.map Prod.fst).Nodup) →
    (∀ j, s.mergeTallies.mem.readElem .tally j =
      s.mem.readElem .tally j + (s.finished.map (tallyAt j)).sum) ∧
    (∀ id, id ≠ .tally → s.mergeTallies.mem.get id = s.mem.get id) ∧
    s.mergeTallies = { s with mem := s.mergeTallies.mem, finished := [] }) ∧
  (∀ (s : State) (ch y : Nat) (c : ConfigRegs), s.takes true c → s.run.fits s.params = true →
    ch < s.run.c.toNat → y < s.run.outh.toNat → c.outw = s.run.outw →
    ∃ t, exec (.row ch y) s = .next t ∧
      (∀ k d, k < 16 → d < 256 →
        t.mem.readElem .tally (k * 256 + d) = s.mem.readElem .tally (k * 256 + d) +
          if k = s.run.inkOf ch then BitVec.ofNat 32 ((List.range s.run.outw.toNat).countP (fun x =>
            decide (t.mem.readElem .print (k * s.params.pbMaxPix + y * s.run.outw.toNat + x) = BitVec.ofNat 32 d)))
          else 0#32) ∧
      ((List.range 256).map (fun d => t.mem.readElem .tally (s.run.inkOf ch * 256 + d))).sum =
        ((List.range 256).map (fun d => s.mem.readElem .tally (s.run.inkOf ch * 256 + d))).sum
          + BitVec.ofNat 32 s.run.outw.toNat) ∧
  ∀ (s : State) (c : ConfigRegs), s.takes true c → s.run.fits s.params = true → c.outw = s.run.outw →
    s.run.inksDistinct →
    ∃ t, exec .band s = .next t ∧
      ∀ k d, k < 16 → d < 256 →
        t.mem.readElem .tally (k * 256 + d) = s.mem.readElem .tally (k * 256 + d) +
          if ∃ ch, ch < s.run.c.toNat ∧ s.run.inkOf ch = k then
            BitVec.ofNat 32 ((List.range (s.run.outw.toNat * s.run.outh.toNat)).countP (fun i =>
              decide (t.mem.readElem .print (k * s.params.pbMaxPix + i) = BitVec.ofNat 32 d)))
          else 0#32

/-- R182, R32: with the effective hysteresis 0, neither SEED nor any draw has an effect on what ROW and BAND leave in
the memories. A BAND of several tasks needs distinct inks, since shared PRINT elements are free values then (log 11). The
draw counter, which names the draws, is the model's (logs 9 and 14). -/
def Obligations.WithoutNoiseSeedAndDrawsHaveNoEffect : Prop :=
  ∀ (i : Instr) (s t : State) (seed : Word) (n : Nat),
    ((∃ ch y, i = .row ch y) ∨
      (i = .band ∧ (s.run.inksDistinct ∨ s.run.par = false ∨ s.run.threads.toNat < 2))) →
    s.run.h = 0#10 → exec i s = .next t →
    ∃ u, exec i { s with run := { s.run with seed := seed }, draws := n } = .next u ∧ u.mem = t.mem

/-! The Band Dispatcher (42_band_dispatch.md). -/

/-- R201: the checks of BAND in their order; OUTDIM.OUTW is taken as it was at acceptance (D37). -/
def Obligations.BandRaisesTheFirstFailingCheck : Prop :=
  ∀ (s : State) (r : Bool) (c : ConfigRegs), s.takes r c →
    (r = false → exec .band s = .next (s.raise .noActiveRun)) ∧
    (r = true → c.outw ≠ s.run.outw → exec .band s = .next (s.raise .bufferBoundsExceeded)) ∧
    ErrCode.noActiveRun.code = 0x42#8 ∧ ErrCode.bufferBoundsExceeded.code = 0x31#8

/-- R202, R203: the tasks of a BAND under each thread budget, and the work-unit list of each; the rows of parity `p` are
`p, p + 2, p + 4, …` below OUTH. In which order the tasks stand among themselves is the model's (log 12). -/
def Obligations.PartitionFollowsTheThreadBudget : Prop :=
  ∀ (par : Bool) (threads chans outh : Nat),
    let rows := fun p : Nat => (List.range ((outh + 1 - p) / 2)).map (fun i => p + 2 * i)
    (par = true → 8 ≤ threads →
      (partition par threads chans outh).length = 2 * chans ∧
      partition par threads chans outh =
        (List.range chans).flatMap (fun c => [(rows 0).map (fun y => (c, y)), (rows 1).map (fun y => (c, y))])) ∧
    (par = true → 4 ≤ threads → threads ≤ 7 →
      (partition par threads chans outh).length = chans ∧
      partition par threads chans outh = (List.range chans).map (fun c => (List.range outh).map (fun y => (c, y)))) ∧
    (par = true → 2 ≤ threads → threads ≤ 3 →
      partition par threads chans outh =
        [(rows 0).flatMap (fun y => (List.range chans).map (fun c => (c, y))),
         (rows 1).flatMap (fun y => (List.range chans).map (fun c => (c, y)))]) ∧
    (par = false ∨ threads < 2 →
      partition par threads chans outh =
        [(List.range outh).flatMap (fun y => (List.range chans).map (fun c => (c, y)))])

/-- R205: the task lists together hold every work unit exactly once, and every (parity, channel) key belongs to one
task. -/
def Obligations.PartitionCoversEveryUnitOnce : Prop :=
  ∀ (par : Bool) (threads chans outh : Nat),
    (partition par threads chans outh).flatten.Nodup ∧
    (∀ c y, (c, y) ∈ (partition par threads chans outh).flatten ↔ c < chans ∧ y < outh) ∧
    (partition par threads chans outh).Pairwise (fun t u =>
      ∀ c y z, (c, y) ∈ t → (c, z) ∈ u → y % 2 ≠ z % 2)

/-- R204: in every task list the rows of each (channel, parity) pair ascend. -/
def Obligations.TaskListsAscendPerKey : Prop :=
  ∀ (par : Bool) (threads chans outh : Nat), ∀ t ∈ partition par threads chans outh,
    t.Pairwise (fun u v => u.1 = v.1 → u.2 % 2 = v.2 % 2 → u.2 < v.2)

/-- R200, R206, R184: BAND completes; with distinct inks or one task, what it leaves in every space but TALLY is what
`RowProcess` of the run's work units, rows outermost and channels innermost, leaves at the same draw counter (that the pixels
draw alike is the model's, log 9; several tasks with shared inks are log 11); and it changes only the EB cells the run uses,
the PRINT elements of the run's inks and pixels, the PREVIEW elements of the run's pixels, the TALLY counters of the run's
inks, DONE and the draw counter. -/
def Obligations.BandTouchesTheRunsCellsAlone : Prop :=
  ∀ (s : State) (c : ConfigRegs), s.takes true c → s.run.fits s.params = true → c.outw = s.run.outw →
    ∃ t, exec .band s = .next t ∧
      t = { s with op := .ready, irqPend := s.irqPend ||| 1#3, mem := t.mem, task := .idle, finished := [],
                   draws := s.draws + 1 } ∧
      t.mem.dot = s.mem.dot ∧ t.mem.errtab = s.mem.errtab ∧ t.mem.pvlut = s.mem.pvlut ∧ t.mem.raster = s.mem.raster ∧
      (∀ a, (∀ b kr ch col, b < 2 → kr < s.run.kh.toNat → ch < s.run.c.toNat → col < s.run.outw.toNat →
          a / 4 ≠ ebIndex s.params b kr ch col) →
        t.mem.eb.readByte .eb a = s.mem.eb.readByte .eb a) ∧
      (∀ a, (∀ ch x y, ch < s.run.c.toNat → x < s.run.outw.toNat → y < s.run.outh.toNat →
          a ≠ printIndex s.params s.run (s.run.inkOf ch) x y) →
        t.mem.print.readByte .print a = s.mem.print.readByte .print a) ∧
      (∀ a, (∀ ch x y, ch < s.run.c.toNat → x < s.run.outw.toNat → y < s.run.outh.toNat →
          a ≠ previewIndex s.run x y ch) →
        t.mem.preview.readByte .preview a = s.mem.preview.readByte .preview a) ∧
      (∀ a, (∀ ch d, ch < s.run.c.toNat → d < 256 → a / 4 ≠ tallyIndex (s.run.inkOf ch) d) →
        t.mem.tally.readByte .tally a = s.mem.tally.readByte .tally a) ∧
      (s.run.inksDistinct ∨ s.run.par = false ∨ s.run.threads.toNat < 2 →
        ∀ id i, id ≠ .tally → t.mem.readElem id i =
          (((List.range s.run.outh.toNat).flatMap (fun y => (List.range s.run.c.toNat).map (fun ch => (ch, y)))).foldl
            (fun u v => rowProcess v u) s).mem.readElem id i)

/-- R206, R208: with distinct inks the state BAND leaves in the memories does not depend on which of the four partitions
was chosen, the draw of each pixel being the same. That the two executions draw alike is the model's: the generator is a
function of SEED, the draw counter and the pixel (log 9). -/
def Obligations.BandDoesNotDependOnThePartition : Prop :=
  ∀ (s : State) (c : ConfigRegs) (par : Bool) (threads : BitVec 8), s.takes true c →
    s.run.fits s.params = true → c.outw = s.run.outw → s.run.inksDistinct →
    ∃ t u, exec .band s = .next t ∧
      exec .band { s with run := { s.run with par := par, threads := threads } } = .next u ∧
      ∀ id i, u.mem.readElem id i = t.mem.readElem id i

/-- R211, for one task and no noise: BAND has the effect of the ROW commands of its list on EB, PRINT, PREVIEW and
TALLY. That each ROW, from READY, is acceptance and completion in one step is the model's (log 20). -/
def Obligations.BandOfOneTaskIsItsRows : Prop :=
  ∀ s : State, s.op = .ready → s.run.fits s.params = true → s.cfg.outw = s.run.outw → s.run.h = 0#10 →
    (s.run.par = false ∨ s.run.threads.toNat < 2) →
    ∃ t u, exec .band s = .next t ∧
      execAll ((unitsOfRows s.run.c.toNat (List.range s.run.outh.toNat)).map (fun v => .row v.1 v.2)) s = .next u ∧
      t.mem.eb = u.mem.eb ∧ t.mem.print = u.mem.print ∧ t.mem.preview = u.mem.preview ∧
      ∀ i, t.mem.readElem .tally i = u.mem.readElem .tally i

/-! Arithmetic primitives (00_scope.md). -/

/-- R11: binary32 addition. NaN and infinities; the signs of a zero sum; overflow to infinity exactly when the exact
sum rounds beyond the largest finite value; otherwise no finite pattern is nearer to the exact sum, and a tie
leaves an even fraction; the order of the operands does not matter. Sums are exact integers in units of 2^-149. -/
def Obligations.FaddIsCorrectlyRounded : Prop :=
  (∀ a b, fadd32 a b = fadd32 b a) ∧
  (∀ a b, f32IsNaN a = true ∨ f32IsNaN b = true → fadd32 a b = 0x7FC00000#32) ∧
  (∀ a b, f32IsInf a = true → f32IsInf b = true → f32Neg a ≠ f32Neg b → fadd32 a b = 0x7FC00000#32) ∧
  (∀ a b, f32IsInf a = true → (f32Finite b ∨ b = a) → fadd32 a b = a) ∧
  (∀ a b, f32Finite a → f32Finite b → f32Units a + f32Units b = 0 →
    fadd32 a b = if a = 0x80000000#32 ∧ b = 0x80000000#32 then 0x80000000#32 else 0#32) ∧
  (∀ a b, f32Finite a → f32Finite b → (2 ^ 25 - 1) * 2 ^ 252 ≤ f32Units a + f32Units b →
    fadd32 a b = 0x7F800000#32) ∧
  (∀ a b, f32Finite a → f32Finite b → f32Units a + f32Units b ≤ -((2 ^ 25 - 1) * 2 ^ 252) →
    fadd32 a b = 0xFF800000#32) ∧
  (∀ a b, f32Finite a → f32Finite b → |f32Units a + f32Units b| < (2 ^ 25 - 1) * 2 ^ 252 →
    f32Finite (fadd32 a b) ∧
    (∀ p, f32Finite p →
      |f32Units (fadd32 a b) - (f32Units a + f32Units b)| ≤ |f32Units p - (f32Units a + f32Units b)|) ∧
    (∀ p, f32Finite p → f32Units p ≠ f32Units (fadd32 a b) →
      |f32Units p - (f32Units a + f32Units b)| = |f32Units (fadd32 a b) - (f32Units a + f32Units b)| →
      f32Frac (fadd32 a b) % 2 = 0))

/-- R12: `f32_fix8(n)` is exactly `n / 256`, and `f32_fix8(0)` is `+0.0`. -/
def Obligations.FixConversionIsExact : Prop :=
  (∀ n : Int, |n| < 2 ^ 24 → f32Finite (f32Fix8 n) ∧ f32Units (f32Fix8 n) = n * 2 ^ 141) ∧ f32Fix8 0 = 0#32

/-- R13: `quant` clamps to `[0, M]` and rounds to the nearest integer, half up; NaN gives 0. -/
def Obligations.QuantClampsAndRoundsHalfUp : Prop :=
  (∀ a M, f32IsNaN a = true → quant a M = 0) ∧
  (∀ a M, f32IsInf a = true → quant a M = if f32Neg a then 0 else M) ∧
  (∀ a M, f32Finite a → f32Units a ≤ 0 → quant a M = 0) ∧
  (∀ a (M : Nat), f32Finite a → 0 < f32Units a → (M : Int) * 2 ^ 149 ≤ f32Units a → quant a M = M) ∧
  (∀ a (M : Nat), f32Finite a → 0 < f32Units a → f32Units a < (M : Int) * 2 ^ 149 →
    (quant a M : Int) * 2 ^ 149 ≤ f32Units a + 2 ^ 148 ∧ f32Units a + 2 ^ 148 < ((quant a M : Int) + 1) * 2 ^ 149) ∧
  (∀ a M, quant a M ≤ M)

/-! The register window and the MEM port (10_state.md, 20_memory.md). -/

/-- R78: a MEMDATA access in range while not BUSY is performed and MEMADDR moves on, modulo 2^32. The list gives the id,
the element's bytes and the capacity of each space (R50, R77). -/
def Obligations.MemPortAccessInRangeIsPerformed : Prop :=
  ∀ (s : State) (rest : List Event) (sel : BitVec 3) (id : SpaceId) (bytes cap : Nat),
    (sel, id, bytes, cap) ∈
     [((0#3 : BitVec 3), SpaceId.dot, 1, 65536), (1#3, .errtab, 4, 1835008), (2#3, .pvlut, 1, 256),
      (3#3, .raster, 2, s.params.rasterMax), (4#3, .eb, 4, 128 * s.params.ebMaxW),
      (5#3, .print, 1, 16 * s.params.pbMaxPix), (6#3, .preview, 1, 16 * s.params.pbMaxPix), (7#3, .tally, 4, 4096)] →
    s.busyFlag = false → s.memSel = sel → s.memAddr.toNat < cap →
    (s.events = .read 0x17#6 :: rest →
      (s.mem.readElem id s.memAddr.toNat).toNat < 2 ^ (8 * bytes) ∧
      step s = .next { s with
        events := rest, rdata := s.mem.readElem id s.memAddr.toNat, memAddr := s.memAddr + 1#32 }) ∧
    (∀ v, s.events = .write 0x17#6 v :: rest → ∃ t,
      step s = .next t ∧ t = { s with events := rest, memAddr := s.memAddr + 1#32, mem := t.mem } ∧
      (t.mem.readElem id s.memAddr.toNat).toNat = v.toNat % 2 ^ (8 * bytes) ∧
      (∀ j, j ≠ s.memAddr.toNat → t.mem.readElem id j = s.mem.readElem id j) ∧
      (∀ jd, jd ≠ id → t.mem.get jd = s.mem.get jd) ∧
      (∀ a, a / bytes ≠ s.memAddr.toNat → (t.mem.get id).readByte id a = (s.mem.get id).readByte id a))

/-- R79: a MEMDATA access out of range while not BUSY is ignored, a read returns 0, and HVIOL is set. The list gives the
id and the capacity of each space (R50, R77). -/
def Obligations.MemPortAccessOutOfRangeIsIgnored : Prop :=
  ∀ (s : State) (rest : List Event) (sel : BitVec 3) (cap : Nat),
    (sel, cap) ∈
     [((0#3 : BitVec 3), 65536), (1#3, 1835008), (2#3, 256), (3#3, s.params.rasterMax), (4#3, 128 * s.params.ebMaxW),
      (5#3, 16 * s.params.pbMaxPix), (6#3, 16 * s.params.pbMaxPix), (7#3, 4096)] →
    s.busyFlag = false → s.memSel = sel → cap ≤ s.memAddr.toNat →
    (s.events = .read 0x17#6 :: rest →
      step s = .next { s with events := rest, rdata := 0#32, irqPend := s.irqPend ||| 4#3 }) ∧
    (∀ v, s.events = .write 0x17#6 v :: rest →
      step s = .next { s with events := rest, irqPend := s.irqPend ||| 4#3 })

/-- R80: a MEMDATA access while BUSY is ignored, a read returns a free value (U3, log 10), and HVIOL is set; MEMSEL and
MEMADDR are written all the same. -/
def Obligations.MemPortAccessWhileBusyIsIgnored : Prop :=
  ∀ (s : State) (rest : List Event), s.busyFlag = true →
    (s.events = .read (regAddr .memData) :: rest →
      step s = .next { s with
        events := rest, rdata := Config.busyReadData s.draws, irqPend := s.irqPend ||| 4#3, draws := s.draws + 1 }) ∧
    (∀ v, s.events = .write (regAddr .memData) v :: rest →
      step s = .next { s with events := rest, irqPend := s.irqPend ||| 4#3 }) ∧
    (∀ v, s.events = .write (regAddr .memSel) v :: rest →
      step s = .next { s with events := rest, memSel := v.setWidth 3 }) ∧
    (∀ v, s.events = .write (regAddr .memAddr) v :: rest → step s = .next { s with events := rest, memAddr := v })

/-- R22, R74 and the field tables of R24 to R39: which word offset is which register. A bus read of a register other than
MEMDATA puts its value on `rdata` (a port the model keeps as data, log 15) and changes nothing else, whatever the operating
state; a bus write changes the register at its offset alone; a read-only register ignores it. A register reads back what was
written on its implemented bits and 0 on its reserved ones (R21). XSTEP, YSTEP, NOISE and RUNINFO show the latched run
(R34 to R36). -/
def Obligations.RegistersReadBackTheirImplementedBits : Prop :=
  (∀ (s : State) (v : Word),
      (s.writeReg .config v).regValue .config = v &&& 0xFF1F03FF#32 ∧
      (s.writeReg .hyst v).regValue .hyst = v &&& 0x0000FFFF#32 ∧
      (s.writeReg .dotLevels v).regValue .dotLevels = v &&& 0x000001FF#32 ∧
      (s.writeReg .inDim v).regValue .inDim = v &&& 0x00FFFFFF#32 ∧
      (s.writeReg .outDim v).regValue .outDim = v ∧
      (s.writeReg .inkOrd0 v).regValue .inkOrd0 = v ∧ (s.writeReg .inkOrd1 v).regValue .inkOrd1 = v ∧
      (s.writeReg .seed v).regValue .seed = v ∧
      (s.writeReg .lutCtl v).regValue .lutCtl = v &&& 0x00000003#32 ∧
      (s.writeReg .dotSize v).regValue .dotSize = v &&& 0x0001FFFF#32 ∧
      (s.writeReg .errSize v).regValue .errSize = v &&& 0x001FFFFF#32 ∧
      (s.writeReg .irqEn v).regValue .irqEn = v &&& 0x00000007#32 ∧
      (s.writeReg .irqPend v).regValue .irqPend = s.regValue .irqPend &&& ~~~v ∧
      (s.writeReg .memSel v).regValue .memSel = v &&& 0x00000007#32 ∧
      (s.writeReg .memAddr v).regValue .memAddr = v ∧
      (∀ r ∈ [Reg.id, .status, .xStep, .yStep, .noise, .runInfo], s.writeReg r v = s) ∧
      s.regValue .cmd = 0#32 ∧ s.regValue .ctrl = 0#32) ∧
  [Reg.id, .cmd, .status, .ctrl, .irqEn, .irqPend, .config, .hyst, .dotLevels, .inDim, .outDim, .inkOrd0, .inkOrd1,
    .seed, .lutCtl, .dotSize, .errSize, .xStep, .yStep, .noise, .runInfo, .memSel, .memAddr, .memData].map
      (fun r => (regAddr r).toNat * 4) =
    [0x00, 0x04, 0x08, 0x0C, 0x10, 0x14, 0x18, 0x1C, 0x20, 0x24, 0x28, 0x2C, 0x30, 0x34, 0x38, 0x3C, 0x40, 0x44, 0x48,
      0x4C, 0x50, 0x54, 0x58, 0x5C] ∧
  (∀ (s : State) (rest : List Event) (r : Reg), r ≠ .memData → s.events = .read (regAddr r) :: rest →
    step s = .next { s with events := rest, rdata := s.regValue r }) ∧
  (∀ s : State,
    s.regValue .id = 0x45444801#32 ∧ s.regValue .cmd = 0#32 ∧ s.regValue .status = s.status ∧ s.regValue .ctrl = 0#32 ∧
    s.regValue .irqEn = s.irqEn.setWidth 32 ∧ s.regValue .irqPend = s.irqPend.setWidth 32 ∧
    s.regValue .config = s.cfg.config &&& 0xFF1F03FF#32 ∧ s.regValue .hyst = s.cfg.hyst.setWidth 32 ∧
    s.regValue .dotLevels = s.cfg.dotLevels.setWidth 32 ∧ s.regValue .inDim = s.cfg.inDim.setWidth 32 ∧
    s.regValue .outDim = s.cfg.outDim ∧ s.regValue .inkOrd0 = s.cfg.inkOrd0 ∧ s.regValue .inkOrd1 = s.cfg.inkOrd1 ∧
    s.regValue .seed = s.cfg.seed ∧ s.regValue .lutCtl = s.cfg.lutCtl.setWidth 32 ∧
    s.regValue .dotSize = s.cfg.dotSize.setWidth 32 ∧ s.regValue .errSize = s.cfg.errSize.setWidth 32 ∧
    s.regValue .xStep = s.run.xstep ∧ s.regValue .yStep = s.run.ystep.setWidth 32 ∧
    (s.regValue .noise).extractLsb' 0 16 = s.run.nrf ∧ (s.regValue .noise).extractLsb' 16 16 = s.run.nrs ∧
    (s.regValue .runInfo).extractLsb' 0 3 = s.run.kh ∧ (s.regValue .runInfo).extractLsb' 3 5 = s.run.ks ∧
    (s.regValue .runInfo).getLsbD 8 = s.run.w16 ∧ (s.regValue .runInfo).getLsbD 9 = s.run.s16 ∧
    ((s.regValue .runInfo).getLsbD 10 = true ↔ s.run.h ≠ 0#10) ∧
    (s.regValue .runInfo).extractLsb' 11 5 = 0#5 ∧ (s.regValue .runInfo).extractLsb' 16 10 = s.run.h ∧
    (s.regValue .runInfo).extractLsb' 26 6 = 0#6 ∧
    s.regValue .memSel = s.memSel.setWidth 32 ∧ s.regValue .memAddr = s.memAddr) ∧
  (∀ (s : State) (rest : List Event) (r : Reg) (v : Word), r ≠ .cmd → r ≠ .ctrl → r ≠ .memData →
    s.events = .write (regAddr r) v :: rest → step s = .next { s.writeReg r v with events := rest }) ∧
  ∀ (s : State) (v : Word),
    s.writeReg .irqEn v = { s with irqEn := v.setWidth 3 } ∧
    s.writeReg .irqPend v = { s with irqPend := s.irqPend &&& ~~~(v.setWidth 3) } ∧
    s.writeReg .config v = { s with cfg := { s.cfg with config := v &&& 0xFF1F03FF#32 } } ∧
    s.writeReg .hyst v = { s with cfg := { s.cfg with hyst := v.setWidth 16 } } ∧
    s.writeReg .dotLevels v = { s with cfg := { s.cfg with dotLevels := v.setWidth 9 } } ∧
    s.writeReg .inDim v = { s with cfg := { s.cfg with inDim := v.setWidth 24 } } ∧
    s.writeReg .outDim v = { s with cfg := { s.cfg with outDim := v } } ∧
    s.writeReg .inkOrd0 v = { s with cfg := { s.cfg with inkOrd0 := v } } ∧
    s.writeReg .inkOrd1 v = { s with cfg := { s.cfg with inkOrd1 := v } } ∧
    s.writeReg .seed v = { s with cfg := { s.cfg with seed := v } } ∧
    s.writeReg .lutCtl v = { s with cfg := { s.cfg with lutCtl := v.setWidth 2 } } ∧
    s.writeReg .dotSize v = { s with cfg := { s.cfg with dotSize := v.setWidth 17 } } ∧
    s.writeReg .errSize v = { s with cfg := { s.cfg with errSize := v.setWidth 21 } } ∧
    s.writeReg .memSel v = { s with memSel := v.setWidth 3 } ∧
    s.writeReg .memAddr v = { s with memAddr := v }

/-- R23: the reserved offsets read 0, ignore writes and do not set HVIOL. -/
def Obligations.ReservedOffsetsReadZero : Prop :=
  ∀ (s : State) (addr : BitVec 6) (rest : List Event), 0x18 ≤ addr.toNat →
    (s.events = .read addr :: rest → step s = .next { s with events := rest, rdata := 0#32 }) ∧
    (∀ v, s.events = .write addr v :: rest → step s = .next { s with events := rest })

/-- R40: `irq` is 1 exactly when an enabled bit is pending, as the registers read. -/
def Obligations.IrqIsTheOrOfEnabledPendingBits : Prop :=
  ∀ s : State, s.irq = true ↔ s.regValue .irqPend &&& s.regValue .irqEn ≠ 0#32

/-- R22, R60: what the registers read after reset. -/
def Obligations.ResetLeavesTheRegisterMapValues : Prop :=
  ∀ (p : Config.Params) (es : List Event),
    [Reg.id, .cmd, .status, .ctrl, .irqEn, .irqPend, .config, .hyst, .dotLevels, .inDim, .outDim, .inkOrd0, .inkOrd1,
      .seed, .lutCtl, .dotSize, .errSize, .xStep, .yStep, .noise, .runInfo, .memSel, .memAddr].map
        (State.start p es).regValue =
    [0x45444801#32, 0#32, 0#32, 0#32, 0#32, 0#32, 0x01040000#32, 0x96#32, 0#32, 0#32, 0#32, 0x76543210#32,
      0xFEDCBA98#32, 0#32, 0#32, 0#32, 0#32, 0#32, 0#32, 0#32, 0#32, 0#32, 0#32] ∧
    (State.start p es).op = .idle ∧ (State.start p es).run = Run.zero ∧ (State.start p es).irq = false

/-- R262, R263: a soft reset puts every register, the operating state and `run` at reset and keeps the memories; if it
interrupts a command, the engine's four buffers become free values (U6, log 8), and no DONE or ERRV is produced. That
`rdata` is kept (log 15), that the working registers are idle (log 16) and the draw counter (log 14) are the model's. -/
def Obligations.SoftResetKeepsTheMemories : Prop :=
  ∀ (s : State) (v : Word) (rest : List Event), s.events = .write (regAddr .ctrl) v :: rest →
    (v.getLsbD 0 = false → step s = .next { s with events := rest }) ∧
    (v.getLsbD 0 = true → ∃ t, step s = .next t ∧
      t = { State.reset with params := s.params, events := rest, rdata := s.rdata, mem := t.mem, draws := t.draws } ∧
      (s.busyFlag = false → t.mem = s.mem ∧ t.draws = s.draws) ∧
      (s.busyFlag = true →
        (∀ id ∈ [SpaceId.dot, .errtab, .pvlut, .raster], t.mem.get id = s.mem.get id) ∧
        (∀ id ∈ [SpaceId.eb, .print, .preview, .tally], ∀ a,
          (t.mem.get id).readByte id a = Config.freeByte s.draws id a)))

/-- R260: a hardware reset puts every register, the operating state and `run` at reset from any state, and every byte of
every memory space is a free value (U1, log 6). That `rdata` is 0 (log 15), that the working registers are idle (log 16) and
that the draw counter moves on instead of being reset (log 14) are the model's. -/
def Obligations.HardwareResetLosesTheMemories : Prop :=
  ∀ (s : State) (rest : List Event), s.events = .rstn :: rest → ∃ t, step s = .next t ∧
    t = { State.reset with params := s.params, events := rest, mem := t.mem, draws := s.draws + 1 } ∧
    ∀ id a, (t.mem.get id).readByte id a = Config.freeByte s.draws id a

/-! Invariants of every step. -/

/-- The invariant holds at reset, for every implementation and every script of events. -/
def Obligations.InvHoldsAtReset : Prop :=
  State.reset.Inv ∧ ∀ (p : Config.Params) (es : List Event), p.ok = true → (State.start p es).Inv

/-- Every step keeps the invariant (the model's canonical form of memory, log 6; reserved bits 0; no task between commands,
log 16; an active run is a latched one) and the implementation parameters (R5, R21, R26, R45, R46). -/
def Obligations.EveryStepKeepsTheInvariant : Prop :=
  ∀ s t : State, s.Inv → step s = .next t → t.Inv ∧ t.params = s.params

/-- R186, R279: from every state with the invariant a step answers a next state: no fault and no refusal. -/
def Obligations.NoStepStopsUnderTheInvariant : Prop :=
  ∀ s : State, s.Inv → ∃ t, step s = .next t

/-- R77, R186: no step lists a byte outside the elements a memory space has. -/
def Obligations.WritesStayInsideTheSpaces : Prop :=
  ∀ s t : State, s.Inv → s.mem.within s.params → step s = .next t → t.mem.within t.params

/-- A run of any length, from reset, of any implementation under any script of host accesses, engine turns and resets,
never stops (R186, R279), its memory keeps the model's canonical form (log 6), and no byte is listed outside a space (R77). -/
def Obligations.NoScriptStopsTheMachine : Prop :=
  ∀ (p : Config.Params) (es : List Event) (n : Nat), p.ok = true →
    ∃ t, Sys2Proof.core.run n (State.start p es) = .next t ∧ t.mem.wf = true ∧ t.mem.within p
end

