-- ==== Sys2Proof/Laws/Memory.lean ====
section
/-! SUPPORT. The laws of the memory: what a byte and an element read as after a write, that the spaces do not
alias (20_memory.md R70), and that every operation keeps the canonical form (log 6). -/

namespace Sys2Proof.Machine

/-! The list of cells. -/

theorem lookupCell_putCell (a b : Nat) (v : Byte) (l : List Host.Cell) :
    lookupCell b (putCell a v l) = if b = a then some v else lookupCell b l := by
  induction l with
  | nil => simp [putCell, lookupCell, eq_comm]
  | cons cell rest ih =>
    obtain ⟨k, w⟩ := cell
    rcases Nat.lt_trichotomy a k with h | rfl | h
    · rw [putCell, if_pos h]
      by_cases hb : b = a
      · simp [lookupCell, hb]
      · simp [lookupCell, hb, Ne.symm hb]
    · by_cases hb : b = a
      · simp [putCell, lookupCell, hb]
      · simp [putCell, lookupCell, hb, Ne.symm hb]
    · rw [putCell, if_neg (by omega), if_neg (by omega), lookupCell, ih, lookupCell]
      by_cases hk : k = b
      · simp [hk, show b ≠ a by omega]
      · simp [hk]

theorem lookupCell_dropCell (a b : Nat) (l : List Host.Cell) :
    lookupCell b (dropCell a l) = if b = a then none else lookupCell b l := by
  induction l with
  | nil => simp [dropCell, lookupCell]
  | cons cell rest ih =>
    obtain ⟨k, w⟩ := cell
    by_cases hk : k = a
    · rw [dropCell, if_pos hk, ih, lookupCell]
      by_cases hb : b = a
      · simp [hb]
      · simp [hb, show k ≠ b by omega]
    · rw [dropCell, if_neg hk, lookupCell, ih, lookupCell]
      by_cases hkb : k = b
      · simp [hkb, show b ≠ a by omega]
      · simp [hkb]

/-- Every cell of the list is above `a`. -/
def cellsAbove (a : Nat) (l : List Host.Cell) : Prop := ∀ cell ∈ l, a < cell.1

theorem cellsRising_cons (a : Nat) (v : Byte) (l : List Host.Cell) :
    cellsRising ((a, v) :: l) = true ↔ cellsAbove a l ∧ cellsRising l = true := by
  induction l generalizing a v with
  | nil => simp [cellsRising, cellsAbove]
  | cons cell rest ih =>
    obtain ⟨k, w⟩ := cell
    have h1 : cellsRising ((a, v) :: (k, w) :: rest) = true ↔ a < k ∧ cellsRising ((k, w) :: rest) = true := by
      simp [cellsRising]
    rw [h1]
    constructor
    · rintro ⟨hak, hr⟩
      refine ⟨?_, hr⟩
      have habove := ((ih k w).1 hr).1
      intro cell hc
      rcases List.mem_cons.1 hc with rfl | hc
      · exact hak
      · exact Nat.lt_trans hak (habove cell hc)
    · rintro ⟨hab, hr⟩
      exact ⟨hab (k, w) (by simp), hr⟩

theorem mem_putCell (a : Nat) (v : Byte) (l : List Host.Cell) (cell : Host.Cell) :
    cell ∈ putCell a v l → cell = (a, v) ∨ cell ∈ l := by
  induction l with
  | nil => simp [putCell]
  | cons hd rest ih =>
    obtain ⟨k, w⟩ := hd
    unfold putCell
    split
    · simp
    · split
      · intro h
        rcases List.mem_cons.1 h with h | h
        · exact .inl h
        · exact .inr (List.mem_cons_of_mem _ h)
      · intro h
        rcases List.mem_cons.1 h with rfl | h
        · simp
        · rcases ih h with h | h
          · exact .inl h
          · exact .inr (List.mem_cons_of_mem _ h)

theorem mem_dropCell (a : Nat) (l : List Host.Cell) (cell : Host.Cell) : cell ∈ dropCell a l → cell ∈ l := by
  induction l with
  | nil => simp [dropCell]
  | cons hd rest ih =>
    obtain ⟨k, w⟩ := hd
    unfold dropCell
    split
    · exact fun h => List.mem_cons_of_mem _ (ih h)
    · intro h
      rcases List.mem_cons.1 h with rfl | h
      · simp
      · exact List.mem_cons_of_mem _ (ih h)

theorem putCell_rising (a : Nat) (v : Byte) (l : List Host.Cell) (h : cellsRising l = true) :
    cellsRising (putCell a v l) = true := by
  induction l with
  | nil => simp [putCell, cellsRising]
  | cons hd rest ih =>
    obtain ⟨k, w⟩ := hd
    obtain ⟨habove, hrest⟩ := (cellsRising_cons k w rest).1 h
    unfold putCell
    split
    · next hlt =>
      rw [cellsRising_cons]
      refine ⟨?_, h⟩
      intro cell hc
      rcases List.mem_cons.1 hc with rfl | hc
      · exact hlt
      · exact Nat.lt_trans hlt (habove cell hc)
    · split
      · next heq => subst heq; exact (cellsRising_cons a v rest).2 ⟨habove, hrest⟩
      · rw [cellsRising_cons]
        refine ⟨?_, ih hrest⟩
        intro cell hc
        rcases mem_putCell a v rest cell hc with rfl | hc
        · show k < a
          omega
        · exact habove cell hc

theorem dropCell_rising (a : Nat) (l : List Host.Cell) (h : cellsRising l = true) :
    cellsRising (dropCell a l) = true := by
  induction l with
  | nil => simp [dropCell, cellsRising]
  | cons hd rest ih =>
    obtain ⟨k, w⟩ := hd
    obtain ⟨habove, hrest⟩ := (cellsRising_cons k w rest).1 h
    unfold dropCell
    split
    · exact ih hrest
    · exact (cellsRising_cons k w _).2 ⟨fun cell hc => habove cell (mem_dropCell a rest cell hc), ih hrest⟩

/-! One byte of a space. -/

@[simp] theorem Space.writeByte_fill (sp : Space) (a : Nat) (v : Byte) : (sp.writeByte a v).fill = sp.fill := by
  unfold Space.writeByte; split <;> rfl

/-- Read after write: the byte written, and every other byte as before. -/
theorem Space.readByte_writeByte (id : SpaceId) (sp : Space) (a b : Nat) (v : Byte) :
    (sp.writeByte a v).readByte id b = if b = a then v else sp.readByte id b := by
  unfold Space.writeByte
  split
  · next h =>
    simp only [Space.readByte, lookupCell_dropCell]
    by_cases hb : b = a <;> simp [hb, h, fillByte]
  · simp only [Space.readByte, lookupCell_putCell]
    by_cases hb : b = a <;> simp [hb]

theorem Space.writeByte_wf (sp : Space) (a : Nat) (v : Byte) (h : sp.wf = true) : (sp.writeByte a v).wf = true := by
  simp only [Space.wf, Bool.and_eq_true, List.all_eq_true, decide_eq_true_eq] at h ⊢
  obtain ⟨hr, hall⟩ := h
  unfold Space.writeByte
  split
  · exact ⟨dropCell_rising a _ hr, fun cell hc => hall cell (mem_dropCell a _ cell hc)⟩
  · next hne =>
    refine ⟨putCell_rising a v _ hr, fun cell hc => ?_⟩
    rcases mem_putCell a v _ cell hc with rfl | hc
    · exact hne
    · exact hall cell hc

theorem Space.mem_writeByte (sp : Space) (a : Nat) (v : Byte) (cell : Host.Cell)
    (h : cell ∈ (sp.writeByte a v).cells) : cell.1 = a ∨ cell ∈ sp.cells := by
  unfold Space.writeByte at h
  split at h
  · exact .inr (mem_dropCell a _ cell h)
  · rcases mem_putCell a v _ cell h with rfl | h
    · exact .inl rfl
    · exact .inr h

/-! Several bytes of a space. -/

@[simp] theorem Space.writeBytes_fill (sp : Space) (a : Nat) (v : Word) (n : Nat) :
    (sp.writeBytes a v n).fill = sp.fill := by
  induction n generalizing sp a v with
  | zero => rfl
  | succ n ih => simp [Space.writeBytes, ih]

theorem Space.writeBytes_wf (sp : Space) (a : Nat) (v : Word) (n : Nat) (h : sp.wf = true) :
    (sp.writeBytes a v n).wf = true := by
  induction n generalizing sp a v with
  | zero => exact h
  | succ n ih => exact ih _ _ _ (sp.writeByte_wf a _ h)

theorem Space.mem_writeBytes (sp : Space) (a : Nat) (v : Word) (n : Nat) (cell : Host.Cell)
    (h : cell ∈ (sp.writeBytes a v n).cells) : (a ≤ cell.1 ∧ cell.1 < a + n) ∨ cell ∈ sp.cells := by
  induction n generalizing sp a v with
  | zero => exact .inr h
  | succ n ih =>
    rcases ih _ _ _ h with h | h
    · left; omega
    · rcases sp.mem_writeByte a _ cell h with h | h
      · left; omega
      · exact .inr h

/-- A byte outside the bytes stored reads as before. -/
theorem Space.readByte_writeBytes_other (id : SpaceId) (sp : Space) (a b : Nat) (v : Word) (n : Nat)
    (h : b < a ∨ a + n ≤ b) : (sp.writeBytes a v n).readByte id b = sp.readByte id b := by
  induction n generalizing sp a v with
  | zero => rfl
  | succ n ih =>
    rw [Space.writeBytes, ih _ _ _ (by omega), Space.readByte_writeByte, if_neg (by omega)]

/-- Bytes outside the bytes stored read as before. -/
theorem Space.readBytes_writeBytes_other (id : SpaceId) (sp : Space) (a b : Nat) (v : Word) (n m : Nat)
    (h : b + m ≤ a ∨ a + n ≤ b) : (sp.writeBytes a v n).readBytes id b m = sp.readBytes id b m := by
  induction m generalizing b with
  | zero => rfl
  | succ m ih =>
    rw [Space.readBytes, Space.readBytes, ih _ (by omega), Space.readByte_writeBytes_other _ _ _ _ _ _ (by omega)]

/-- The low `8 * n` bits of a word. -/
def lowBytes (n : Nat) (v : Word) : Word := (v.setWidth (8 * n)).setWidth 32

/-- The bytes stored read back as the low bits of the word stored. -/
theorem Space.readBytes_writeBytes_same (id : SpaceId) (sp : Space) (a : Nat) (v : Word) (n : Nat) (hn : n ≤ 4) :
    (sp.writeBytes a v n).readBytes id a n = lowBytes n v := by
  induction n generalizing sp a v with
  | zero => exact BitVec.eq_of_getLsbD_eq fun i _ => by simp [Space.readBytes, lowBytes]
  | succ n ih =>
    rw [Space.writeBytes, Space.readBytes, ih _ _ _ (by omega),
      Space.readByte_writeBytes_other _ _ _ _ _ _ (by omega), Space.readByte_writeByte, if_pos rfl]
    apply BitVec.eq_of_getLsbD_eq
    intro i hi
    by_cases h8 : i < 8
    · simp [lowBytes, h8, hi, show i < 8 * (n + 1) by omega]
    · by_cases hn8 : i < 8 * (n + 1)
      · simp [lowBytes, h8, hi, hn8, show i - 8 < 32 by omega, show 8 + (i - 8) = i by omega, show i - 8 < 8 * n by omega]
      · simp [lowBytes, h8, hi, hn8, show ¬ i - 8 < 8 * n by omega]

/-! The eight spaces. -/

@[simp] theorem Memory.get_set (m : Memory) (sp : Space) (i j : SpaceId) :
    (m.set sp i).get j = if j = i then sp else m.get j := by
  cases i <;> cases j <;> rfl

/-- An element reads back as the low bits of what was written, as many as it is wide (R72). -/
theorem Memory.readElem_writeElem_same (m : Memory) (id : SpaceId) (i : Nat) (v : Word) :
    (m.writeElem id i v).readElem id i = lowBytes (elemBytes id) v := by
  simp only [Memory.readElem, Memory.writeElem, Memory.get_set, if_true]
  exact Space.readBytes_writeBytes_same _ _ _ _ _ (by cases id <;> decide)

/-- A 32-bit element reads back as written. -/
theorem Memory.readElem_writeElem_word (m : Memory) (id : SpaceId) (i : Nat) (v : Word) (h : elemBytes id = 4) :
    (m.writeElem id i v).readElem id i = v := by
  rw [Memory.readElem_writeElem_same, h]
  simp [lowBytes]

/-- Another element of the same space reads as before. -/
theorem Memory.readElem_writeElem_other (m : Memory) (id : SpaceId) (i j : Nat) (v : Word) (h : j ≠ i) :
    (m.writeElem id i v).readElem id j = m.readElem id j := by
  simp only [Memory.readElem, Memory.writeElem, Memory.get_set, if_true]
  apply Space.readBytes_writeBytes_other
  rcases Nat.lt_or_gt_of_ne h with h | h
  · left
    calc j * elemBytes id + elemBytes id = (j + 1) * elemBytes id := by ring
      _ ≤ i * elemBytes id := Nat.mul_le_mul_right _ h
  · right
    calc i * elemBytes id + elemBytes id = (i + 1) * elemBytes id := by ring
      _ ≤ j * elemBytes id := Nat.mul_le_mul_right _ h

/-- No space aliases another (R70). -/
@[simp] theorem Memory.get_writeElem (m : Memory) (id jd : SpaceId) (i : Nat) (v : Word) :
    (m.writeElem id i v).get jd
      = if jd = id then (m.get id).writeBytes (i * elemBytes id) v (elemBytes id) else m.get jd := by
  simp [Memory.writeElem]

theorem Memory.readElem_writeElem_space (m : Memory) (id jd : SpaceId) (i j : Nat) (v : Word) (h : jd ≠ id) :
    (m.writeElem id i v).readElem jd j = m.readElem jd j := by
  simp [Memory.readElem, h]

/-- The canonical form, space by space. -/
theorem Memory.wf_iff (m : Memory) : m.wf = true ↔ ∀ id, (m.get id).wf = true := by
  constructor
  · intro h id
    simp only [Memory.wf, Bool.and_eq_true] at h
    obtain ⟨⟨⟨⟨⟨⟨⟨h1, h2⟩, h3⟩, h4⟩, h5⟩, h6⟩, h7⟩, h8⟩ := h
    cases id <;> assumption
  · intro h
    simp only [Memory.wf, Bool.and_eq_true]
    exact ⟨⟨⟨⟨⟨⟨⟨h .dot, h .errtab⟩, h .pvlut⟩, h .raster⟩, h .eb⟩, h .print⟩, h .preview⟩, h .tally⟩

theorem Memory.set_wf (m : Memory) (sp : Space) (id : SpaceId) (hm : m.wf = true) (hs : sp.wf = true) :
    (m.set sp id).wf = true := by
  rw [Memory.wf_iff] at hm ⊢
  intro j
  rw [Memory.get_set]
  split
  · exact hs
  · exact hm j

/-- Writing an element keeps the canonical form. -/
theorem Memory.writeElem_wf (m : Memory) (id : SpaceId) (i : Nat) (v : Word) (h : m.wf = true) :
    (m.writeElem id i v).wf = true :=
  m.set_wf _ id h (Space.writeBytes_wf _ _ _ _ ((Memory.wf_iff m).1 h id))

/-- Clearing a space keeps the canonical form. -/
theorem Memory.clearSpace_wf (m : Memory) (id : SpaceId) (h : m.wf = true) : (m.clearSpace id).wf = true :=
  m.set_wf _ id h rfl

/-- A space losing its contents keeps the canonical form. -/
theorem Memory.loseSpace_wf (m : Memory) (id : SpaceId) (n : Nat) (h : m.wf = true) : (m.loseSpace id n).wf = true :=
  m.set_wf _ id h rfl

/-- The memory after hardware reset is in canonical form. -/
theorem Memory.unspecified_wf (n : Nat) : (Memory.unspecified n).wf = true := rfl

/-- Every element of a cleared space is 0 (R141). -/
theorem Memory.readElem_clearSpace (m : Memory) (id : SpaceId) (i : Nat) : (m.clearSpace id).readElem id i = 0#32 := by
  have hz : ∀ n a, Space.readBytes id { fill := .const 0#8, cells := [] } a n = 0#32 := by
    intro n
    induction n with
    | zero => intro a; rfl
    | succ n ih => intro a; simp [Space.readBytes, ih, Space.readByte, lookupCell, fillByte]
  simp [Memory.readElem, Memory.clearSpace, hz]

end Sys2Proof.Machine
end

