-- ==== Sys2Proof/Laws/State.lean ====
section
/-! SUPPORT. One lemma per field per update of State: what each named update leaves in each field. -/

namespace Sys2Proof.Machine

@[simp] theorem State.withOp_params (s : State) (v : OpState) : (s.withOp v).params = s.params := rfl
@[simp] theorem State.withOp_irqEn (s : State) (v : OpState) : (s.withOp v).irqEn = s.irqEn := rfl
@[simp] theorem State.withOp_irqPend (s : State) (v : OpState) : (s.withOp v).irqPend = s.irqPend := rfl
@[simp] theorem State.withOp_cfg (s : State) (v : OpState) : (s.withOp v).cfg = s.cfg := rfl
@[simp] theorem State.withOp_memSel (s : State) (v : OpState) : (s.withOp v).memSel = s.memSel := rfl
@[simp] theorem State.withOp_memAddr (s : State) (v : OpState) : (s.withOp v).memAddr = s.memAddr := rfl
@[simp] theorem State.withOp_op (s : State) (v : OpState) : (s.withOp v).op = v := rfl
@[simp] theorem State.withOp_run (s : State) (v : OpState) : (s.withOp v).run = s.run := rfl
@[simp] theorem State.withOp_mem (s : State) (v : OpState) : (s.withOp v).mem = s.mem := rfl
@[simp] theorem State.withOp_task (s : State) (v : OpState) : (s.withOp v).task = s.task := rfl
@[simp] theorem State.withOp_finished (s : State) (v : OpState) : (s.withOp v).finished = s.finished := rfl
@[simp] theorem State.withOp_rdata (s : State) (v : OpState) : (s.withOp v).rdata = s.rdata := rfl
@[simp] theorem State.withOp_events (s : State) (v : OpState) : (s.withOp v).events = s.events := rfl
@[simp] theorem State.withOp_draws (s : State) (v : OpState) : (s.withOp v).draws = s.draws := rfl

@[simp] theorem State.withRun_params (s : State) (v : Run) : (s.withRun v).params = s.params := rfl
@[simp] theorem State.withRun_irqEn (s : State) (v : Run) : (s.withRun v).irqEn = s.irqEn := rfl
@[simp] theorem State.withRun_irqPend (s : State) (v : Run) : (s.withRun v).irqPend = s.irqPend := rfl
@[simp] theorem State.withRun_cfg (s : State) (v : Run) : (s.withRun v).cfg = s.cfg := rfl
@[simp] theorem State.withRun_memSel (s : State) (v : Run) : (s.withRun v).memSel = s.memSel := rfl
@[simp] theorem State.withRun_memAddr (s : State) (v : Run) : (s.withRun v).memAddr = s.memAddr := rfl
@[simp] theorem State.withRun_op (s : State) (v : Run) : (s.withRun v).op = s.op := rfl
@[simp] theorem State.withRun_run (s : State) (v : Run) : (s.withRun v).run = v := rfl
@[simp] theorem State.withRun_mem (s : State) (v : Run) : (s.withRun v).mem = s.mem := rfl
@[simp] theorem State.withRun_task (s : State) (v : Run) : (s.withRun v).task = s.task := rfl
@[simp] theorem State.withRun_finished (s : State) (v : Run) : (s.withRun v).finished = s.finished := rfl
@[simp] theorem State.withRun_rdata (s : State) (v : Run) : (s.withRun v).rdata = s.rdata := rfl
@[simp] theorem State.withRun_events (s : State) (v : Run) : (s.withRun v).events = s.events := rfl
@[simp] theorem State.withRun_draws (s : State) (v : Run) : (s.withRun v).draws = s.draws := rfl

@[simp] theorem State.withMem_params (s : State) (v : Memory) : (s.withMem v).params = s.params := rfl
@[simp] theorem State.withMem_irqEn (s : State) (v : Memory) : (s.withMem v).irqEn = s.irqEn := rfl
@[simp] theorem State.withMem_irqPend (s : State) (v : Memory) : (s.withMem v).irqPend = s.irqPend := rfl
@[simp] theorem State.withMem_cfg (s : State) (v : Memory) : (s.withMem v).cfg = s.cfg := rfl
@[simp] theorem State.withMem_memSel (s : State) (v : Memory) : (s.withMem v).memSel = s.memSel := rfl
@[simp] theorem State.withMem_memAddr (s : State) (v : Memory) : (s.withMem v).memAddr = s.memAddr := rfl
@[simp] theorem State.withMem_op (s : State) (v : Memory) : (s.withMem v).op = s.op := rfl
@[simp] theorem State.withMem_run (s : State) (v : Memory) : (s.withMem v).run = s.run := rfl
@[simp] theorem State.withMem_mem (s : State) (v : Memory) : (s.withMem v).mem = v := rfl
@[simp] theorem State.withMem_task (s : State) (v : Memory) : (s.withMem v).task = s.task := rfl
@[simp] theorem State.withMem_finished (s : State) (v : Memory) : (s.withMem v).finished = s.finished := rfl
@[simp] theorem State.withMem_rdata (s : State) (v : Memory) : (s.withMem v).rdata = s.rdata := rfl
@[simp] theorem State.withMem_events (s : State) (v : Memory) : (s.withMem v).events = s.events := rfl
@[simp] theorem State.withMem_draws (s : State) (v : Memory) : (s.withMem v).draws = s.draws := rfl

@[simp] theorem State.withTask_params (s : State) (v : TaskRegs) : (s.withTask v).params = s.params := rfl
@[simp] theorem State.withTask_irqEn (s : State) (v : TaskRegs) : (s.withTask v).irqEn = s.irqEn := rfl
@[simp] theorem State.withTask_irqPend (s : State) (v : TaskRegs) : (s.withTask v).irqPend = s.irqPend := rfl
@[simp] theorem State.withTask_cfg (s : State) (v : TaskRegs) : (s.withTask v).cfg = s.cfg := rfl
@[simp] theorem State.withTask_memSel (s : State) (v : TaskRegs) : (s.withTask v).memSel = s.memSel := rfl
@[simp] theorem State.withTask_memAddr (s : State) (v : TaskRegs) : (s.withTask v).memAddr = s.memAddr := rfl
@[simp] theorem State.withTask_op (s : State) (v : TaskRegs) : (s.withTask v).op = s.op := rfl
@[simp] theorem State.withTask_run (s : State) (v : TaskRegs) : (s.withTask v).run = s.run := rfl
@[simp] theorem State.withTask_mem (s : State) (v : TaskRegs) : (s.withTask v).mem = s.mem := rfl
@[simp] theorem State.withTask_task (s : State) (v : TaskRegs) : (s.withTask v).task = v := rfl
@[simp] theorem State.withTask_finished (s : State) (v : TaskRegs) : (s.withTask v).finished = s.finished := rfl
@[simp] theorem State.withTask_rdata (s : State) (v : TaskRegs) : (s.withTask v).rdata = s.rdata := rfl
@[simp] theorem State.withTask_events (s : State) (v : TaskRegs) : (s.withTask v).events = s.events := rfl
@[simp] theorem State.withTask_draws (s : State) (v : TaskRegs) : (s.withTask v).draws = s.draws := rfl

@[simp] theorem State.withFinished_params (s : State) (v : List Tally) : (s.withFinished v).params = s.params := rfl
@[simp] theorem State.withFinished_irqEn (s : State) (v : List Tally) : (s.withFinished v).irqEn = s.irqEn := rfl
@[simp] theorem State.withFinished_irqPend (s : State) (v : List Tally) : (s.withFinished v).irqPend = s.irqPend := rfl
@[simp] theorem State.withFinished_cfg (s : State) (v : List Tally) : (s.withFinished v).cfg = s.cfg := rfl
@[simp] theorem State.withFinished_memSel (s : State) (v : List Tally) : (s.withFinished v).memSel = s.memSel := rfl
@[simp] theorem State.withFinished_memAddr (s : State) (v : List Tally) : (s.withFinished v).memAddr = s.memAddr := rfl
@[simp] theorem State.withFinished_op (s : State) (v : List Tally) : (s.withFinished v).op = s.op := rfl
@[simp] theorem State.withFinished_run (s : State) (v : List Tally) : (s.withFinished v).run = s.run := rfl
@[simp] theorem State.withFinished_mem (s : State) (v : List Tally) : (s.withFinished v).mem = s.mem := rfl
@[simp] theorem State.withFinished_task (s : State) (v : List Tally) : (s.withFinished v).task = s.task := rfl
@[simp] theorem State.withFinished_finished (s : State) (v : List Tally) : (s.withFinished v).finished = v := rfl
@[simp] theorem State.withFinished_rdata (s : State) (v : List Tally) : (s.withFinished v).rdata = s.rdata := rfl
@[simp] theorem State.withFinished_events (s : State) (v : List Tally) : (s.withFinished v).events = s.events := rfl
@[simp] theorem State.withFinished_draws (s : State) (v : List Tally) : (s.withFinished v).draws = s.draws := rfl

@[simp] theorem State.withCfg_params (s : State) (v : ConfigRegs) : (s.withCfg v).params = s.params := rfl
@[simp] theorem State.withCfg_irqEn (s : State) (v : ConfigRegs) : (s.withCfg v).irqEn = s.irqEn := rfl
@[simp] theorem State.withCfg_irqPend (s : State) (v : ConfigRegs) : (s.withCfg v).irqPend = s.irqPend := rfl
@[simp] theorem State.withCfg_cfg (s : State) (v : ConfigRegs) : (s.withCfg v).cfg = v := rfl
@[simp] theorem State.withCfg_memSel (s : State) (v : ConfigRegs) : (s.withCfg v).memSel = s.memSel := rfl
@[simp] theorem State.withCfg_memAddr (s : State) (v : ConfigRegs) : (s.withCfg v).memAddr = s.memAddr := rfl
@[simp] theorem State.withCfg_op (s : State) (v : ConfigRegs) : (s.withCfg v).op = s.op := rfl
@[simp] theorem State.withCfg_run (s : State) (v : ConfigRegs) : (s.withCfg v).run = s.run := rfl
@[simp] theorem State.withCfg_mem (s : State) (v : ConfigRegs) : (s.withCfg v).mem = s.mem := rfl
@[simp] theorem State.withCfg_task (s : State) (v : ConfigRegs) : (s.withCfg v).task = s.task := rfl
@[simp] theorem State.withCfg_finished (s : State) (v : ConfigRegs) : (s.withCfg v).finished = s.finished := rfl
@[simp] theorem State.withCfg_rdata (s : State) (v : ConfigRegs) : (s.withCfg v).rdata = s.rdata := rfl
@[simp] theorem State.withCfg_events (s : State) (v : ConfigRegs) : (s.withCfg v).events = s.events := rfl
@[simp] theorem State.withCfg_draws (s : State) (v : ConfigRegs) : (s.withCfg v).draws = s.draws := rfl

@[simp] theorem State.withEvents_params (s : State) (v : List Event) : (s.withEvents v).params = s.params := rfl
@[simp] theorem State.withEvents_irqEn (s : State) (v : List Event) : (s.withEvents v).irqEn = s.irqEn := rfl
@[simp] theorem State.withEvents_irqPend (s : State) (v : List Event) : (s.withEvents v).irqPend = s.irqPend := rfl
@[simp] theorem State.withEvents_cfg (s : State) (v : List Event) : (s.withEvents v).cfg = s.cfg := rfl
@[simp] theorem State.withEvents_memSel (s : State) (v : List Event) : (s.withEvents v).memSel = s.memSel := rfl
@[simp] theorem State.withEvents_memAddr (s : State) (v : List Event) : (s.withEvents v).memAddr = s.memAddr := rfl
@[simp] theorem State.withEvents_op (s : State) (v : List Event) : (s.withEvents v).op = s.op := rfl
@[simp] theorem State.withEvents_run (s : State) (v : List Event) : (s.withEvents v).run = s.run := rfl
@[simp] theorem State.withEvents_mem (s : State) (v : List Event) : (s.withEvents v).mem = s.mem := rfl
@[simp] theorem State.withEvents_task (s : State) (v : List Event) : (s.withEvents v).task = s.task := rfl
@[simp] theorem State.withEvents_finished (s : State) (v : List Event) : (s.withEvents v).finished = s.finished := rfl
@[simp] theorem State.withEvents_rdata (s : State) (v : List Event) : (s.withEvents v).rdata = s.rdata := rfl
@[simp] theorem State.withEvents_events (s : State) (v : List Event) : (s.withEvents v).events = v := rfl
@[simp] theorem State.withEvents_draws (s : State) (v : List Event) : (s.withEvents v).draws = s.draws := rfl

@[simp] theorem State.withRdata_params (s : State) (v : Word) : (s.withRdata v).params = s.params := rfl
@[simp] theorem State.withRdata_irqEn (s : State) (v : Word) : (s.withRdata v).irqEn = s.irqEn := rfl
@[simp] theorem State.withRdata_irqPend (s : State) (v : Word) : (s.withRdata v).irqPend = s.irqPend := rfl
@[simp] theorem State.withRdata_cfg (s : State) (v : Word) : (s.withRdata v).cfg = s.cfg := rfl
@[simp] theorem State.withRdata_memSel (s : State) (v : Word) : (s.withRdata v).memSel = s.memSel := rfl
@[simp] theorem State.withRdata_memAddr (s : State) (v : Word) : (s.withRdata v).memAddr = s.memAddr := rfl
@[simp] theorem State.withRdata_op (s : State) (v : Word) : (s.withRdata v).op = s.op := rfl
@[simp] theorem State.withRdata_run (s : State) (v : Word) : (s.withRdata v).run = s.run := rfl
@[simp] theorem State.withRdata_mem (s : State) (v : Word) : (s.withRdata v).mem = s.mem := rfl
@[simp] theorem State.withRdata_task (s : State) (v : Word) : (s.withRdata v).task = s.task := rfl
@[simp] theorem State.withRdata_finished (s : State) (v : Word) : (s.withRdata v).finished = s.finished := rfl
@[simp] theorem State.withRdata_rdata (s : State) (v : Word) : (s.withRdata v).rdata = v := rfl
@[simp] theorem State.withRdata_events (s : State) (v : Word) : (s.withRdata v).events = s.events := rfl
@[simp] theorem State.withRdata_draws (s : State) (v : Word) : (s.withRdata v).draws = s.draws := rfl

@[simp] theorem State.withMemAddr_params (s : State) (v : Word) : (s.withMemAddr v).params = s.params := rfl
@[simp] theorem State.withMemAddr_irqEn (s : State) (v : Word) : (s.withMemAddr v).irqEn = s.irqEn := rfl
@[simp] theorem State.withMemAddr_irqPend (s : State) (v : Word) : (s.withMemAddr v).irqPend = s.irqPend := rfl
@[simp] theorem State.withMemAddr_cfg (s : State) (v : Word) : (s.withMemAddr v).cfg = s.cfg := rfl
@[simp] theorem State.withMemAddr_memSel (s : State) (v : Word) : (s.withMemAddr v).memSel = s.memSel := rfl
@[simp] theorem State.withMemAddr_memAddr (s : State) (v : Word) : (s.withMemAddr v).memAddr = v := rfl
@[simp] theorem State.withMemAddr_op (s : State) (v : Word) : (s.withMemAddr v).op = s.op := rfl
@[simp] theorem State.withMemAddr_run (s : State) (v : Word) : (s.withMemAddr v).run = s.run := rfl
@[simp] theorem State.withMemAddr_mem (s : State) (v : Word) : (s.withMemAddr v).mem = s.mem := rfl
@[simp] theorem State.withMemAddr_task (s : State) (v : Word) : (s.withMemAddr v).task = s.task := rfl
@[simp] theorem State.withMemAddr_finished (s : State) (v : Word) : (s.withMemAddr v).finished = s.finished := rfl
@[simp] theorem State.withMemAddr_rdata (s : State) (v : Word) : (s.withMemAddr v).rdata = s.rdata := rfl
@[simp] theorem State.withMemAddr_events (s : State) (v : Word) : (s.withMemAddr v).events = s.events := rfl
@[simp] theorem State.withMemAddr_draws (s : State) (v : Word) : (s.withMemAddr v).draws = s.draws := rfl

@[simp] theorem State.withPend_params (s : State) (v : BitVec 3) : (s.withPend v).params = s.params := rfl
@[simp] theorem State.withPend_irqEn (s : State) (v : BitVec 3) : (s.withPend v).irqEn = s.irqEn := rfl
@[simp] theorem State.withPend_irqPend (s : State) (v : BitVec 3) : (s.withPend v).irqPend = v := rfl
@[simp] theorem State.withPend_cfg (s : State) (v : BitVec 3) : (s.withPend v).cfg = s.cfg := rfl
@[simp] theorem State.withPend_memSel (s : State) (v : BitVec 3) : (s.withPend v).memSel = s.memSel := rfl
@[simp] theorem State.withPend_memAddr (s : State) (v : BitVec 3) : (s.withPend v).memAddr = s.memAddr := rfl
@[simp] theorem State.withPend_op (s : State) (v : BitVec 3) : (s.withPend v).op = s.op := rfl
@[simp] theorem State.withPend_run (s : State) (v : BitVec 3) : (s.withPend v).run = s.run := rfl
@[simp] theorem State.withPend_mem (s : State) (v : BitVec 3) : (s.withPend v).mem = s.mem := rfl
@[simp] theorem State.withPend_task (s : State) (v : BitVec 3) : (s.withPend v).task = s.task := rfl
@[simp] theorem State.withPend_finished (s : State) (v : BitVec 3) : (s.withPend v).finished = s.finished := rfl
@[simp] theorem State.withPend_rdata (s : State) (v : BitVec 3) : (s.withPend v).rdata = s.rdata := rfl
@[simp] theorem State.withPend_events (s : State) (v : BitVec 3) : (s.withPend v).events = s.events := rfl
@[simp] theorem State.withPend_draws (s : State) (v : BitVec 3) : (s.withPend v).draws = s.draws := rfl

@[simp] theorem State.nextDraw_params (s : State) : (s.nextDraw).params = s.params := rfl
@[simp] theorem State.nextDraw_irqEn (s : State) : (s.nextDraw).irqEn = s.irqEn := rfl
@[simp] theorem State.nextDraw_irqPend (s : State) : (s.nextDraw).irqPend = s.irqPend := rfl
@[simp] theorem State.nextDraw_cfg (s : State) : (s.nextDraw).cfg = s.cfg := rfl
@[simp] theorem State.nextDraw_memSel (s : State) : (s.nextDraw).memSel = s.memSel := rfl
@[simp] theorem State.nextDraw_memAddr (s : State) : (s.nextDraw).memAddr = s.memAddr := rfl
@[simp] theorem State.nextDraw_op (s : State) : (s.nextDraw).op = s.op := rfl
@[simp] theorem State.nextDraw_run (s : State) : (s.nextDraw).run = s.run := rfl
@[simp] theorem State.nextDraw_mem (s : State) : (s.nextDraw).mem = s.mem := rfl
@[simp] theorem State.nextDraw_task (s : State) : (s.nextDraw).task = s.task := rfl
@[simp] theorem State.nextDraw_finished (s : State) : (s.nextDraw).finished = s.finished := rfl
@[simp] theorem State.nextDraw_rdata (s : State) : (s.nextDraw).rdata = s.rdata := rfl
@[simp] theorem State.nextDraw_events (s : State) : (s.nextDraw).events = s.events := rfl
@[simp] theorem State.nextDraw_draws (s : State) : (s.nextDraw).draws = s.draws + 1 := rfl

@[simp] theorem State.setPend_params (s : State) (v : BitVec 3) : (s.setPend v).params = s.params := rfl
@[simp] theorem State.setPend_irqEn (s : State) (v : BitVec 3) : (s.setPend v).irqEn = s.irqEn := rfl
@[simp] theorem State.setPend_irqPend (s : State) (v : BitVec 3) : (s.setPend v).irqPend = s.irqPend ||| v := rfl
@[simp] theorem State.setPend_cfg (s : State) (v : BitVec 3) : (s.setPend v).cfg = s.cfg := rfl
@[simp] theorem State.setPend_memSel (s : State) (v : BitVec 3) : (s.setPend v).memSel = s.memSel := rfl
@[simp] theorem State.setPend_memAddr (s : State) (v : BitVec 3) : (s.setPend v).memAddr = s.memAddr := rfl
@[simp] theorem State.setPend_op (s : State) (v : BitVec 3) : (s.setPend v).op = s.op := rfl
@[simp] theorem State.setPend_run (s : State) (v : BitVec 3) : (s.setPend v).run = s.run := rfl
@[simp] theorem State.setPend_mem (s : State) (v : BitVec 3) : (s.setPend v).mem = s.mem := rfl
@[simp] theorem State.setPend_task (s : State) (v : BitVec 3) : (s.setPend v).task = s.task := rfl
@[simp] theorem State.setPend_finished (s : State) (v : BitVec 3) : (s.setPend v).finished = s.finished := rfl
@[simp] theorem State.setPend_rdata (s : State) (v : BitVec 3) : (s.setPend v).rdata = s.rdata := rfl
@[simp] theorem State.setPend_events (s : State) (v : BitVec 3) : (s.setPend v).events = s.events := rfl
@[simp] theorem State.setPend_draws (s : State) (v : BitVec 3) : (s.setPend v).draws = s.draws := rfl

@[simp] theorem State.violate_params (s : State) : (s.violate).params = s.params := rfl
@[simp] theorem State.violate_irqEn (s : State) : (s.violate).irqEn = s.irqEn := rfl
@[simp] theorem State.violate_irqPend (s : State) : (s.violate).irqPend = s.irqPend ||| hviolBit := rfl
@[simp] theorem State.violate_cfg (s : State) : (s.violate).cfg = s.cfg := rfl
@[simp] theorem State.violate_memSel (s : State) : (s.violate).memSel = s.memSel := rfl
@[simp] theorem State.violate_memAddr (s : State) : (s.violate).memAddr = s.memAddr := rfl
@[simp] theorem State.violate_op (s : State) : (s.violate).op = s.op := rfl
@[simp] theorem State.violate_run (s : State) : (s.violate).run = s.run := rfl
@[simp] theorem State.violate_mem (s : State) : (s.violate).mem = s.mem := rfl
@[simp] theorem State.violate_task (s : State) : (s.violate).task = s.task := rfl
@[simp] theorem State.violate_finished (s : State) : (s.violate).finished = s.finished := rfl
@[simp] theorem State.violate_rdata (s : State) : (s.violate).rdata = s.rdata := rfl
@[simp] theorem State.violate_events (s : State) : (s.violate).events = s.events := rfl
@[simp] theorem State.violate_draws (s : State) : (s.violate).draws = s.draws := rfl

@[simp] theorem State.raise_params (s : State) (e : ErrCode) : (s.raise e).params = s.params := rfl
@[simp] theorem State.raise_irqEn (s : State) (e : ErrCode) : (s.raise e).irqEn = s.irqEn := rfl
@[simp] theorem State.raise_irqPend (s : State) (e : ErrCode) : (s.raise e).irqPend = s.irqPend ||| errvBit := rfl
@[simp] theorem State.raise_cfg (s : State) (e : ErrCode) : (s.raise e).cfg = s.cfg := rfl
@[simp] theorem State.raise_memSel (s : State) (e : ErrCode) : (s.raise e).memSel = s.memSel := rfl
@[simp] theorem State.raise_memAddr (s : State) (e : ErrCode) : (s.raise e).memAddr = s.memAddr := rfl
@[simp] theorem State.raise_op (s : State) (e : ErrCode) : (s.raise e).op = .error e := rfl
@[simp] theorem State.raise_run (s : State) (e : ErrCode) : (s.raise e).run = s.run := rfl
@[simp] theorem State.raise_mem (s : State) (e : ErrCode) : (s.raise e).mem = s.mem := rfl
@[simp] theorem State.raise_task (s : State) (e : ErrCode) : (s.raise e).task = s.task := rfl
@[simp] theorem State.raise_finished (s : State) (e : ErrCode) : (s.raise e).finished = s.finished := rfl
@[simp] theorem State.raise_rdata (s : State) (e : ErrCode) : (s.raise e).rdata = s.rdata := rfl
@[simp] theorem State.raise_events (s : State) (e : ErrCode) : (s.raise e).events = s.events := rfl
@[simp] theorem State.raise_draws (s : State) (e : ErrCode) : (s.raise e).draws = s.draws := rfl

@[simp] theorem State.complete_params (s : State) (r : Bool) : (s.complete r).params = s.params := rfl
@[simp] theorem State.complete_irqEn (s : State) (r : Bool) : (s.complete r).irqEn = s.irqEn := rfl
@[simp] theorem State.complete_irqPend (s : State) (r : Bool) : (s.complete r).irqPend = s.irqPend ||| doneBit := rfl
@[simp] theorem State.complete_cfg (s : State) (r : Bool) : (s.complete r).cfg = s.cfg := rfl
@[simp] theorem State.complete_memSel (s : State) (r : Bool) : (s.complete r).memSel = s.memSel := rfl
@[simp] theorem State.complete_memAddr (s : State) (r : Bool) : (s.complete r).memAddr = s.memAddr := rfl
@[simp] theorem State.complete_op (s : State) (r : Bool) : (s.complete r).op = restingOp r := rfl
@[simp] theorem State.complete_run (s : State) (r : Bool) : (s.complete r).run = s.run := rfl
@[simp] theorem State.complete_mem (s : State) (r : Bool) : (s.complete r).mem = s.mem := rfl
@[simp] theorem State.complete_task (s : State) (r : Bool) : (s.complete r).task = .idle := rfl
@[simp] theorem State.complete_finished (s : State) (r : Bool) : (s.complete r).finished = [] := rfl
@[simp] theorem State.complete_rdata (s : State) (r : Bool) : (s.complete r).rdata = s.rdata := rfl
@[simp] theorem State.complete_events (s : State) (r : Bool) : (s.complete r).events = s.events := rfl
@[simp] theorem State.complete_draws (s : State) (r : Bool) : (s.complete r).draws = s.draws := rfl

@[simp] theorem State.accept_params (s : State) (w : Word) : (s.accept w).params = s.params := rfl
@[simp] theorem State.accept_irqEn (s : State) (w : Word) : (s.accept w).irqEn = s.irqEn := rfl
@[simp] theorem State.accept_irqPend (s : State) (w : Word) : (s.accept w).irqPend = s.irqPend := rfl
@[simp] theorem State.accept_cfg (s : State) (w : Word) : (s.accept w).cfg = s.cfg := rfl
@[simp] theorem State.accept_memSel (s : State) (w : Word) : (s.accept w).memSel = s.memSel := rfl
@[simp] theorem State.accept_memAddr (s : State) (w : Word) : (s.accept w).memAddr = s.memAddr := rfl
@[simp] theorem State.accept_op (s : State) (w : Word) : (s.accept w).op = .busy s.readyFlag w s.cfg := rfl
@[simp] theorem State.accept_run (s : State) (w : Word) : (s.accept w).run = s.run := rfl
@[simp] theorem State.accept_mem (s : State) (w : Word) : (s.accept w).mem = s.mem := rfl
@[simp] theorem State.accept_task (s : State) (w : Word) : (s.accept w).task = s.task := rfl
@[simp] theorem State.accept_finished (s : State) (w : Word) : (s.accept w).finished = s.finished := rfl
@[simp] theorem State.accept_rdata (s : State) (w : Word) : (s.accept w).rdata = s.rdata := rfl
@[simp] theorem State.accept_events (s : State) (w : Word) : (s.accept w).events = s.events := rfl
@[simp] theorem State.accept_draws (s : State) (w : Word) : (s.accept w).draws = s.draws := rfl

@[simp] theorem State.setEbCell_params (s : State) (b kr c col : Nat) (v : F32) : (s.setEbCell b kr c col v).params = s.params := rfl
@[simp] theorem State.setEbCell_irqEn (s : State) (b kr c col : Nat) (v : F32) : (s.setEbCell b kr c col v).irqEn = s.irqEn := rfl
@[simp] theorem State.setEbCell_irqPend (s : State) (b kr c col : Nat) (v : F32) : (s.setEbCell b kr c col v).irqPend = s.irqPend := rfl
@[simp] theorem State.setEbCell_cfg (s : State) (b kr c col : Nat) (v : F32) : (s.setEbCell b kr c col v).cfg = s.cfg := rfl
@[simp] theorem State.setEbCell_memSel (s : State) (b kr c col : Nat) (v : F32) : (s.setEbCell b kr c col v).memSel = s.memSel := rfl
@[simp] theorem State.setEbCell_memAddr (s : State) (b kr c col : Nat) (v : F32) : (s.setEbCell b kr c col v).memAddr = s.memAddr := rfl
@[simp] theorem State.setEbCell_op (s : State) (b kr c col : Nat) (v : F32) : (s.setEbCell b kr c col v).op = s.op := rfl
@[simp] theorem State.setEbCell_run (s : State) (b kr c col : Nat) (v : F32) : (s.setEbCell b kr c col v).run = s.run := rfl
@[simp] theorem State.setEbCell_mem (s : State) (b kr c col : Nat) (v : F32) : (s.setEbCell b kr c col v).mem = s.mem.writeElem .eb (ebIndex s.params b kr c col) v := rfl
@[simp] theorem State.setEbCell_task (s : State) (b kr c col : Nat) (v : F32) : (s.setEbCell b kr c col v).task = s.task := rfl
@[simp] theorem State.setEbCell_finished (s : State) (b kr c col : Nat) (v : F32) : (s.setEbCell b kr c col v).finished = s.finished := rfl
@[simp] theorem State.setEbCell_rdata (s : State) (b kr c col : Nat) (v : F32) : (s.setEbCell b kr c col v).rdata = s.rdata := rfl
@[simp] theorem State.setEbCell_events (s : State) (b kr c col : Nat) (v : F32) : (s.setEbCell b kr c col v).events = s.events := rfl
@[simp] theorem State.setEbCell_draws (s : State) (b kr c col : Nat) (v : F32) : (s.setEbCell b kr c col v).draws = s.draws := rfl

end Sys2Proof.Machine
end

