-- ==== Sys2Proof/Laws/Ops.lean ====
section
/-! SUPPORT. What each shared operation can do, said once: the beginning of a meaning, raising, completing,
accepting, the resets, the host's accesses. -/

namespace Sys2Proof.Machine

@[simp] theorem restingOp_true : restingOp true = .ready := rfl
@[simp] theorem restingOp_false : restingOp false = .idle := rfl

/-- In BUSY a meaning is its carrying out. -/
theorem issue_busy (i : Instr) (s : State) (f : State → Result) (r : Bool) (w : Word) (c : ConfigRegs)
    (h : s.op = .busy r w c) : issue i s f = f s := by simp [issue, h]

/-- In IDLE and READY the command is accepted first (60_exceptions.md R231). -/
theorem issue_resting (i : Instr) (s : State) (f : State → Result) (r : Bool) (h : s.op = restingOp r) :
    issue i s f = f (s.accept (encode i)) := by cases r <;> simp [issue, h]

/-- In ERROR a command other than CLRERR is ignored as a violation (60_exceptions.md R231). -/
theorem issue_error (i : Instr) (s : State) (f : State → Result) (e : ErrCode) (h : s.op = .error e)
    (hi : i ≠ .clrerr) : issue i s f = .next s.violate := by simp [issue, h, hi]

/-- Everything a meaning can do: it carries the command out in a BUSY state, the given one or the one its acceptance
leaves; or, in ERROR, it is ignored. -/
theorem issue_cases (i : Instr) (s : State) (f : State → Result) :
    (issue i s f = f s ∧ s.busyFlag = true) ∨
    (issue i s f = f (s.accept (encode i)) ∧ s.busyFlag = false) ∨
    (issue i s f = .next s.violate ∧ s.errFlag = true) := by
  unfold issue
  cases h : s.op with
  | idle => simp [State.busyFlag, h]
  | ready => simp [State.busyFlag, h]
  | busy r w c => simp [State.busyFlag, h]
  | error e => by_cases hi : i = .clrerr <;> simp [State.busyFlag, State.errFlag, h, hi]

@[simp] theorem State.accept_busyFlag (s : State) (w : Word) : (s.accept w).busyFlag = true := rfl
@[simp] theorem State.accept_readyFlag (s : State) (w : Word) : (s.accept w).readyFlag = s.readyFlag := rfl
@[simp] theorem State.accept_acceptedCfg (s : State) (w : Word) : (s.accept w).acceptedCfg = s.cfg := rfl
@[simp] theorem State.complete_busyFlag (s : State) (r : Bool) : (s.complete r).busyFlag = false := by
  cases r <;> rfl
@[simp] theorem State.complete_readyFlag (s : State) (r : Bool) : (s.complete r).readyFlag = r := by
  cases r <;> rfl
@[simp] theorem State.raise_readyFlag (s : State) (e : ErrCode) : (s.raise e).readyFlag = false := rfl
@[simp] theorem State.raise_busyFlag (s : State) (e : ErrCode) : (s.raise e).busyFlag = false := rfl
@[simp] theorem State.raise_errFlag (s : State) (e : ErrCode) : (s.raise e).errFlag = true := rfl
@[simp] theorem State.raise_errCode (s : State) (e : ErrCode) : (s.raise e).errCode = e.code := rfl

/-- `raise` as one record update (60_exceptions.md R236). -/
theorem State.raise_eq (s : State) (e : ErrCode) :
    s.raise e = { s with op := .error e, irqPend := s.irqPend ||| errvBit } := rfl

/-- Completion as one record update (10_state.md R41, R46). -/
theorem State.complete_eq (s : State) (r : Bool) :
    s.complete r = { s with op := restingOp r, irqPend := s.irqPend ||| doneBit, task := .idle, finished := [] } := rfl

/-- Acceptance as one record update. -/
theorem State.accept_eq (s : State) (w : Word) : s.accept w = { s with op := .busy s.readyFlag w s.cfg } := rfl

/-- What a taken command reads: its READY bit. -/
theorem State.takes_readyFlag {s : State} {r : Bool} {c : ConfigRegs} (h : s.takes r c) : s.readyFlag = r := by
  rcases h with ⟨h, _⟩ | ⟨w, h⟩
  · cases r <;> simp [State.readyFlag, h]
  · simp [State.readyFlag, h]

/-- A taken command is carried out, in the given state or the accepted one; both hold the READY bit and the
configuration of its acceptance. -/
theorem issue_takes (i : Instr) (s : State) (f : State → Result) (r : Bool) (c : ConfigRegs) (h : s.takes r c) :
    ∃ op, issue i s f = f { s with op := op } ∧ State.readyFlag { s with op := op } = r ∧
      State.acceptedCfg { s with op := op } = c := by
  rcases h with ⟨h, rfl⟩ | ⟨w, h⟩
  · refine ⟨.busy s.readyFlag (encode i) s.cfg, issue_resting i s f r h, ?_, rfl⟩
    cases r <;> simp [State.readyFlag, h]
  · refine ⟨s.op, issue_busy i s f r w c h, ?_, ?_⟩
    · simp [State.readyFlag, h]
    · simp [State.acceptedCfg, h]

/-- The engine's buffers losing their contents changes the memory and the draw counter alone, and keeps the
canonical form. -/
theorem State.loseBuffers_eq (s : State) :
    s.loseBuffers = { s with mem := s.loseBuffers.mem, draws := s.draws + 1 } := rfl

theorem State.loseBuffers_wf (s : State) (h : s.mem.wf = true) : s.loseBuffers.mem.wf = true :=
  Memory.loseSpace_wf _ _ _ (Memory.loseSpace_wf _ _ _ (Memory.loseSpace_wf _ _ _ (Memory.loseSpace_wf _ _ _ h)))

/-- A MEMDATA read changes the bus output, MEMADDR, IRQPEND and the draw counter alone. -/
theorem State.readMemData_eq (s : State) :
    s.readMemData = { s with
      rdata := s.readMemData.rdata, memAddr := s.readMemData.memAddr, irqPend := s.readMemData.irqPend
      draws := s.readMemData.draws } := by
  unfold State.readMemData
  split
  · rfl
  · split <;> rfl

/-- A MEMDATA write changes the selected space, MEMADDR and IRQPEND alone. -/
theorem State.writeMemData_eq (s : State) (v : Word) :
    s.writeMemData v = { s with
      mem := (s.writeMemData v).mem, memAddr := (s.writeMemData v).memAddr, irqPend := (s.writeMemData v).irqPend } := by
  unfold State.writeMemData
  split
  · rfl
  · split <;> rfl

theorem State.writeMemData_wf (s : State) (v : Word) (h : s.mem.wf = true) : (s.writeMemData v).mem.wf = true := by
  unfold State.writeMemData
  split
  · exact h
  · split
    · exact Memory.writeElem_wf _ _ _ _ h
    · exact h

/-- A host read changes the bus output, MEMADDR, IRQPEND and the draw counter alone. -/
theorem State.busRead_eq (s : State) (a : BitVec 6) :
    s.busRead a = { s with
      rdata := (s.busRead a).rdata, memAddr := (s.busRead a).memAddr, irqPend := (s.busRead a).irqPend
      draws := (s.busRead a).draws } := by
  unfold State.busRead
  split
  · next r _ =>
    cases r
    case memData => exact s.readMemData_eq
    all_goals rfl
  · rfl

/-- The word offset of each register of the window leads back to it (10_state.md R22). -/
@[simp] theorem regAt_regAddr (r : Reg) : regAt (regAddr r) = some r := by cases r <;> rfl

/-- The space MEMSEL's value names leads back to it (10_state.md R50). -/
@[simp] theorem spaceOfSel_spaceId (id : SpaceId) : spaceOfSel ((spaceId id).setWidth 3) = id := by
  cases id <;> rfl

end Sys2Proof.Machine
end

