-- ==== Sys2Proof/Laws/PerInstr.lean ====
section
/-! SUPPORT. Per-instruction families: statements about a command as syntax, one lemma per constructor. -/

namespace Sys2Proof.Laws.MatchesTable

/-- The word of a well-formed command selects exactly the row of R102 that bears its mnemonic. -/
def Statement (i : Instr) : Prop := i.wellFormed = true → matchingRows (encode i) = [i.mnemonic]

theorem nop : Statement .nop := fun _ => by decide
theorem init : Statement .init := fun _ => by decide
theorem band : Statement .band := fun _ => by decide
theorem endRun : Statement .endRun := fun _ => by decide
theorem clrerr : Statement .clrerr := fun _ => by decide

/-- The fixed fields of a ROW word (R100): OP is 2 and bits 19:16 are zero, whatever the operands. -/
theorem row_fixed_fields (ch y : Nat) :
    encode (.row ch y) &&& 0xFF0F0000#32 = 0x02000000#32 ∧ encode (.row ch y) &&& 0xFF000000#32 = 0x02000000#32 := by
  constructor <;> apply BitVec.eq_of_getLsbD_eq <;> intro i hi <;>
    simp only [encode, BitVec.getLsbD_and, BitVec.getLsbD_append, BitVec.getLsbD_ofNat] <;>
    interval_cases i <;> simp [Nat.testBit_eq_decide_div_mod_eq]

theorem row (ch y : Nat) : Statement (.row ch y) := fun _ => by
  obtain ⟨h, h8⟩ := row_fixed_fields ch y
  have hne : ∀ p : Word, p &&& 0xFF000000#32 ≠ 0x02000000#32 → ¬ encode (.row ch y) &&& 0xFFFFFFFF#32 = p := by
    intro p hp he
    rw [show (0xFFFFFFFF#32 : Word) = BitVec.allOnes 32 from rfl, BitVec.and_allOnes] at he
    exact hp (he ▸ h8)
  unfold matchingRows opRows
  rw [List.filter_cons_of_neg (by simpa using hne _ (by decide)),
    List.filter_cons_of_neg (by simpa using hne _ (by decide)), List.filter_cons_of_pos (by simpa using h),
    List.filter_cons_of_neg (by simpa using hne _ (by decide)),
    List.filter_cons_of_neg (by simpa using hne _ (by decide)),
    List.filter_cons_of_neg (by simpa using hne _ (by decide))]
  rfl

end Sys2Proof.Laws.MatchesTable
end

