-- ==== Sys2Proof/Laws/Pipeline.lean ====
section
/-! SUPPORT. What the operations of the row pipeline can change, said once: a pixel's steps change the working
registers and the memory alone, and of the memory only EB, PRINT and PREVIEW; a task also appends its local
tally; the merge changes TALLY. -/

namespace Sys2Proof.Machine

/-- `t` differs from `s` in the memory and the working registers alone, and in no space the pipeline never writes. -/
structure PipelineChange (s t : State) : Prop where
  same : t = { s with mem := t.mem, task := t.task }
  dot : t.mem.dot = s.mem.dot
  errtab : t.mem.errtab = s.mem.errtab
  pvlut : t.mem.pvlut = s.mem.pvlut
  raster : t.mem.raster = s.mem.raster
  tally : t.mem.tally = s.mem.tally
  wf : s.mem.wf = true → t.mem.wf = true

theorem PipelineChange.refl (s : State) : PipelineChange s s := ⟨rfl, rfl, rfl, rfl, rfl, rfl, id⟩

theorem PipelineChange.trans {s t u : State} (h : PipelineChange s t) (k : PipelineChange t u) :
    PipelineChange s u := by
  refine ⟨?_, k.dot.trans h.dot, k.errtab.trans h.errtab, k.pvlut.trans h.pvlut, k.raster.trans h.raster,
    k.tally.trans h.tally, fun w => k.wf (h.wf w)⟩
  have hs := h.same
  have ks := k.same
  rw [hs] at ks
  exact ks

theorem PipelineChange.run {s t : State} (h : PipelineChange s t) : t.run = s.run := by rw [h.same]
theorem PipelineChange.params {s t : State} (h : PipelineChange s t) : t.params = s.params := by rw [h.same]
theorem PipelineChange.op {s t : State} (h : PipelineChange s t) : t.op = s.op := by rw [h.same]
theorem PipelineChange.cfg {s t : State} (h : PipelineChange s t) : t.cfg = s.cfg := by rw [h.same]
theorem PipelineChange.finished {s t : State} (h : PipelineChange s t) : t.finished = s.finished := by rw [h.same]
theorem PipelineChange.draws {s t : State} (h : PipelineChange s t) : t.draws = s.draws := by rw [h.same]

/-- Replacing the working registers alone. -/
theorem PipelineChange.ofTask (s : State) (t : TaskRegs) : PipelineChange s (s.withTask t) :=
  ⟨rfl, rfl, rfl, rfl, rfl, rfl, id⟩

/-- Writing a cell of EB alone. -/
theorem PipelineChange.ofEb (s : State) (b kr c col : Nat) (v : F32) : PipelineChange s (s.setEbCell b kr c col v) :=
  ⟨rfl, rfl, rfl, rfl, rfl, rfl, fun w => Memory.writeElem_wf _ _ _ _ w⟩

/-- A fold of pipeline operations is one. -/
theorem PipelineChange.foldl {α : Type} (f : State → α → State) (hf : ∀ s a, PipelineChange s (f s a)) (l : List α)
    (s : State) : PipelineChange s (l.foldl f s) := by
  induction l generalizing s with
  | nil => exact .refl s
  | cons a l ih => exact (hf s a).trans (ih _)

theorem pixelResample_change (s : State) : PipelineChange s (pixelResample s) := .ofTask s _
theorem pixelAddError_change (s : State) : PipelineChange s (pixelAddError s) := .ofTask s _
theorem pixelQuantise_change (s : State) : PipelineChange s (pixelQuantise s) := .ofTask s _
theorem pixelDot_change (s : State) : PipelineChange s (pixelDot s) := .ofTask s _
theorem pixelAdvance_change (s : State) : PipelineChange s (pixelAdvance s) := .ofTask s _
theorem setupUnit_change (u : WorkUnit) (s : State) : PipelineChange s (setupUnit u s) := .ofTask s _

theorem pixelNoise_change (s : State) : PipelineChange s (pixelNoise s) := by
  unfold pixelNoise
  split
  · exact .ofTask s _
  · exact .refl s

theorem diffuseSlot_change (kr slot : Nat) (s : State) : PipelineChange s (diffuseSlot kr slot s) := by
  simp only [diffuseSlot]
  split
  · exact .ofEb s _ _ _ _ _
  · exact .refl s

theorem pixelDiffuse_change (s : State) : PipelineChange s (pixelDiffuse s) :=
  .foldl (fun s kr => diffuseRow kr s)
    (fun s kr => .foldl (fun s slot => diffuseSlot kr slot s) (fun s slot => diffuseSlot_change kr slot s) _ s) _ s

theorem pixelShift_change (s : State) : PipelineChange s (pixelShift s) :=
  (PipelineChange.foldl (fun s kr => shiftRow kr s) (fun s _ => .ofEb s _ _ _ _ _) _ s).trans (.ofEb _ _ _ _ _ _)

theorem pixelEmit_change (s : State) : PipelineChange s (pixelEmit s) :=
  ⟨rfl, rfl, rfl, rfl, rfl, rfl, fun w => Memory.writeElem_wf _ _ _ _ (Memory.writeElem_wf _ _ _ _ w)⟩

theorem pixel_change (s : State) : PipelineChange s (pixel s) :=
  (((((((((pixelResample_change s).trans (pixelAddError_change _)).trans (pixelNoise_change _)).trans
    (pixelQuantise_change _)).trans (pixelDot_change _)).trans (pixelDiffuse_change _)).trans
    (pixelShift_change _)).trans (pixelEmit_change _)).trans (pixelAdvance_change _))

theorem pixels_change (n : Nat) (s : State) : PipelineChange s (pixels n s) := by
  induction n generalizing s with
  | zero => exact .refl s
  | succ n ih => exact (pixel_change s).trans (ih _)

/-- Everything one work unit can do (41_row_halftone.md R163). -/
theorem rowProcess_change (u : WorkUnit) (s : State) : PipelineChange s (rowProcess u s) :=
  (setupUnit_change u s).trans (pixels_change _ _)

theorem runUnits_change (l : List WorkUnit) (s : State) : PipelineChange s (runUnits l s) := by
  induction l generalizing s with
  | nil => exact .refl s
  | cons u l ih => exact ((PipelineChange.ofTask s _).trans (rowProcess_change u _)).trans (ih _)

/-- Everything a task can do: the pipeline's changes to the memory, its tally appended, no task left. -/
theorem runTask_spec (l : List WorkUnit) (s : State) :
    ∃ t, PipelineChange s t ∧ runTask l s = { t with finished := s.finished ++ [t.task.tally], task := .idle } := by
  have h := runUnits_change l (s.withTask { TaskRegs.idle with units := l })
  refine ⟨_, (PipelineChange.ofTask s { TaskRegs.idle with units := l }).trans h, ?_⟩
  have hf : _ = s.finished := h.finished
  rw [← hf]
  rfl

/-- The merge changes TALLY alone and keeps the canonical form (43_output_encoder.md R225). -/
theorem mergeTally_get (m : Memory) (t : Tally) (id : SpaceId) (h : id ≠ .tally) : (mergeTally m t).get id = m.get id := by
  unfold mergeTally
  induction t generalizing m with
  | nil => rfl
  | cons kn t ih => rw [List.foldl_cons, ih, Memory.get_writeElem, if_neg h]

theorem mergeTally_wf (m : Memory) (t : Tally) (h : m.wf = true) : (mergeTally m t).wf = true := by
  unfold mergeTally
  induction t generalizing m with
  | nil => exact h
  | cons kn t ih => exact ih _ (Memory.writeElem_wf _ _ _ _ h)

theorem mergeTallies_get (s : State) (id : SpaceId) (h : id ≠ .tally) : s.mergeTallies.mem.get id = s.mem.get id := by
  have : ∀ (l : List Tally) (m : Memory), (l.foldl mergeTally m).get id = m.get id := by
    intro l
    induction l with
    | nil => intro m; rfl
    | cons t l ih => intro m; rw [List.foldl_cons, ih, mergeTally_get m t id h]
  exact this _ _

theorem mergeTallies_wf (s : State) (h : s.mem.wf = true) : s.mergeTallies.mem.wf = true := by
  have : ∀ (l : List Tally) (m : Memory), m.wf = true → (l.foldl mergeTally m).wf = true := by
    intro l
    induction l with
    | nil => intro m hm; exact hm
    | cons t l ih => intro m hm; exact ih _ (mergeTally_wf m t hm)
  exact this _ _ h

/-- Writing unspecified bytes over PRINT changes PRINT alone and keeps the canonical form. -/
theorem losePrint_get (p : Config.Params) (d k n : Nat) (m : Memory) (id : SpaceId) (h : id ≠ .print) :
    (losePrint p d k n m).get id = m.get id := by
  induction n generalizing m with
  | zero => rfl
  | succ n ih => rw [losePrint, ih, Memory.get_writeElem, if_neg h]

theorem losePrint_wf (p : Config.Params) (d k n : Nat) (m : Memory) (h : m.wf = true) :
    (losePrint p d k n m).wf = true := by
  induction n generalizing m with
  | zero => exact h
  | succ n ih => exact ih _ (Memory.writeElem_wf _ _ _ _ h)

end Sys2Proof.Machine
end

