-- ==== Sys2Proof/Tests/Slice0.lean ====
section
/-! SUPPORT. The model's own tests. Expected values are those of spec/95_test_vectors.md (the vector is named) or a
hand reading of the rule named. Then a witness for the hypotheses of each statement. -/

namespace Sys2Proof.Machine

/-! Helpers. -/

/-- The answer is a next state with a property. -/
def nextIs (o : Result) (f : State → Bool) : Bool :=
  match o with
  | .next t => f t
  | .fault _ => false
  | .refused _ => false

/-- A space whose elements are 0 but for the listed bytes. -/
def zeroSpace (cells : List Host.Cell) : Space := { fill := .const 0#8, cells := cells }

/-- Store whole elements into a memory. -/
def putElems (id : SpaceId) (m : Memory) (l : List (Nat × Word)) : Memory :=
  l.foldl (fun m iv => m.writeElem id iv.1 iv.2) m

/-- The 32-bit entries of T8 for one intensity: slots 2, 4, 10 and 11 (95_test_vectors.md). -/
def t8Row (i : Nat) (e2 e4 e10 e11 : Word) : List (Nat × Word) :=
  [(i * 14 + 2, e2), (i * 14 + 4, e4), (i * 14 + 10, e10), (i * 14 + 11, e11)]

/-- Memory with T8's entries for the intensities V10 meets, and a raster of eight samples of value 100. -/
def demoMem : Memory :=
  let z := zeroSpace []
  let m : Memory :=
    { dot := z, errtab := z, pvlut := z, raster := z, eb := z, print := z, preview := z, tally := z }
  let m := putElems .dot m [(144, 1#32)]
  let m := putElems .pvlut m [(1, 255#32)]
  let m := putElems .raster m ((List.range 8).map (fun i => (i, 100#32)))
  putElems .errtab m
    (t8Row 51 0x41190000#32 0x41B28000#32 0x417F0000#32 0x404C0000#32 ++
     t8Row 100 0x41960000#32 0x422F0000#32 0x41FA0000#32 0x40C80000#32 ++
     t8Row 122 0x41B70000#32 0x42558000#32 0x42188000#32 0x40F40000#32 ++
     t8Row 144 0xC1A68000#32 0xC2424000#32 0xC20AC000#32 0xC0DE0000#32)

/-- The configuration of V10: kernel 16, serpentine, 1 channel, 4 by 2 to 4 by 2, no noise, T8 declared. -/
def demoCfg : ConfigRegs :=
  { ConfigRegs.reset with
    config := 0x01010110#32, hyst := 0#16, inDim := 0x020004#24, outDim := 0x00020004#32, lutCtl := 3#2
    dotSize := 256#17, errSize := 3584#21 }

/-- READY, with the run of V10 latched. -/
def demo : State := { State.reset with cfg := demoCfg, run := latchRun demoCfg, mem := demoMem, op := .ready }

/-- IDLE, with the configuration of V10. -/
def demoIdle : State := { demo with op := .idle, run := .zero }

/-- In ERROR after a failed INIT (V50). -/
def demoError : State := { demo with op := .error .invalidKernelIndex }

/-- BUSY in the run of V10, with the word `w` accepted. -/
def demoBusy (w : Word) : State := { demo with op := .busy true w demoCfg }

/-! WellFormed refuses what has no encoding (30_encoding.md R101, R106). -/

theorem test_wellFormed_refuses_channel_16 : (Instr.row 16 0).wellFormed = false := by decide
theorem test_wellFormed_refuses_row_65536 : (Instr.row 0 65536).wellFormed = false := by decide

/-! Decoding, words written out from R100 and R102 (V1, V2). -/

theorem test_decode_nop : decode 0b00000000000000000000000000000000#32 = .ok .nop := by decide
theorem test_decode_init : decode 0b00000001000000000000000000000000#32 = .ok .init := by decide
theorem test_decode_row : decode 0b00000010001100000000000000000101#32 = .ok (.row 3 5) := by decide
theorem test_decode_row_high : decode 0b00000010111100001111111111111111#32 = .ok (.row 15 65535) := by decide
theorem test_decode_band : decode 0b00000011000000000000000000000000#32 = .ok .band := by decide
theorem test_decode_end : decode 0b00000100000000000000000000000000#32 = .ok .endRun := by decide
theorem test_decode_clrerr : decode 0b00000101000000000000000000000000#32 = .ok .clrerr := by decide
theorem test_decode_illegal :
    [0x00000001, 0x01000100, 0x02010000, 0x020F0000, 0x03800000, 0x05000001].map (fun w => decode (BitVec.ofNat 32 w))
      = List.replicate 6 (.error .nonZeroField) := by decide
theorem test_decode_reserved :
    [0x06000000, 0xFF000000, 0xFFFFFFFF].map (fun w => decode (BitVec.ofNat 32 w))
      = List.replicate 3 (.error .reservedOpcode) := by decide
theorem test_decodeTableWord : decodeTableWord 32 0x02300005 = some (.row 3 5) := by decide

/-! Arithmetic primitives (V5, V6, V7, V23, V24). -/

theorem test_fadd32_ties_to_even :
    fadd32 0x3F800000#32 0x33800000#32 = 0x3F800000#32 ∧ fadd32 0x3F800001#32 0x33800000#32 = 0x3F800002#32 := by
  decide +kernel
theorem test_fadd32_edges :
    fadd32 0x7F7FFFFF#32 0x73000000#32 = 0x7F800000#32 ∧ fadd32 0x7F7FFFFF#32 0x72FFFFFF#32 = 0x7F7FFFFF#32 ∧
    fadd32 0x7F800000#32 0xFF800000#32 = 0x7FC00000#32 ∧ fadd32 0x80000000#32 0#32 = 0#32 ∧
    fadd32 0x00800000#32 0x80000001#32 = 0x007FFFFF#32 := by decide +kernel
theorem test_f32Fix8 : f32Fix8 823 = 0x404DC000#32 ∧ f32Fix8 (-16777215) = 0xC77FFFFF#32 := by decide +kernel
theorem test_quant :
    quant 0x3EFFFFFF#32 255 = 0 ∧ quant 0x40200000#32 255 = 3 ∧ quant 0x437E7FFF#32 255 = 254 ∧
    quant 0xFF800000#32 255 = 0 ∧ quant 0x477FFE80#32 65535 = 65535 := by decide +kernel
theorem test_noiseTerm : noiseTerm (-3) 6400 255 = -692 ∧ noiseTerm 1000 5120000 65535 = 177873 := by decide +kernel
theorem test_noiseRange : noiseRange 41 1 = 4 ∧ noiseRange 42 1 = 5 ∧ noiseRange 150 257 = 1953 := by decide
theorem test_grid :
    (List.range 3).map (fun x => (gridBase x 0x2AAAA, gridWeight x 0x2AAAA, gridNext x 0x2AAAA 8))
      = [(0, 0, 1), (2, 170, 3), (5, 85, 6)] := by decide
theorem test_bilinear : (bilinear 0 100 200 255 128 128 + 128) / 256 = 35520 := by decide
theorem test_normaliseHyst :
    [0, 1000, 1001, 0x7FFF, 0x8000, 0xFFFF].map (fun h => normaliseHyst (BitVec.ofNat 16 h))
      = [0, 1000, 150, 150, 150, 150] := by decide
theorem test_index_formulas :
    ebIndex Config.resetParams 1 2 5 7 = 6471 ∧ tallyIndex 3 2 = 770 := by decide

/-! Partition (V30). -/

theorem test_partition :
    partition true 8 2 3 = [[(0, 0), (0, 2)], [(0, 1)], [(1, 0), (1, 2)], [(1, 1)]] ∧
    partition true 7 2 3 = [[(0, 0), (0, 1), (0, 2)], [(1, 0), (1, 1), (1, 2)]] ∧
    partition true 3 2 3 = [[(0, 0), (1, 0), (0, 2), (1, 2)], [(0, 1), (1, 1)]] ∧
    partition false 8 2 3 = [[(0, 0), (1, 0), (0, 1), (1, 1), (0, 2), (1, 2)]] := by decide

/-! The commands, at most two each. -/

/-- V25. -/
theorem test_nop : nextIs (exec .nop demo) (fun t => t.status = 2#32 ∧ t.irqPend = 1#3) = true := by decide +kernel

/-- V20, third line: kernel 14, 16-bit tables over an 8-bit image, 4 channels. -/
theorem test_init_latches :
    nextIs (exec .init { State.reset with cfg := { ConfigRegs.reset with
        config := 0x0104002E#32, hyst := 150#16, inDim := 0x080003#24, outDim := 0x00030007#32, lutCtl := 3#2
        dotSize := 65536#17, errSize := 1835008#21 } })
      (fun t => [Reg.status, .runInfo, .xStep, .yStep, .noise].map t.regValue =
        [2#32, 0x009605E4#32, 0x00006DB6#32, 0x0002AAAA#32, 0x07A203D0#32]) = true := by decide +kernel

/-- V21: the first failing check wins. -/
theorem test_init_first_error :
    nextIs (exec .init { demoIdle with cfg := { demoCfg with config := 0x01010051#32, lutCtl := 0#2, outDim := 0#32 } })
      (fun t => t.status = 0x1104#32 ∧ t.irqPend = 2#3) = true := by decide +kernel

/-- V10. -/
theorem test_row_V10 :
    nextIs (exec (.row 0 0) demo) (fun t =>
      (List.range 4).map (t.ebCell 0 0 0) = [0x41270000#32, 0xC1970000#32, 0x41FF0000#32, 0x42254000#32] ∧
      (List.range 4).map (t.mem.readElem .print) = [0#32, 1#32, 0#32, 0#32]) = true := by decide +kernel

/-- V11: the reverse row, on the other bank. -/
theorem test_row_V11 :
    nextIs (exec (.row 0 1) demo) (fun t =>
      (List.range 4).map (t.ebCell 1 0 0) = [0x42254000#32, 0x41FF0000#32, 0xC1970000#32, 0x41270000#32] ∧
      (List.range 4).map (fun i => t.mem.readElem .preview (4 + i)) = [0#32, 0#32, 255#32, 0#32]) = true := by
  decide +kernel

/-- P1's end state, by BAND (R211). -/
theorem test_band_P1 :
    nextIs (exec .band demo) (fun t =>
      (List.range 8).map (t.mem.readElem .print) = [0#32, 1#32, 0#32, 0#32, 0#32, 0#32, 1#32, 0#32] ∧
      (List.range 2).map (t.mem.readElem .tally) = [6#32, 2#32]) = true := by decide +kernel

/-- The same by two tasks (R208). -/
theorem test_band_two_tasks :
    nextIs (exec .band { demo with run := { demo.run with par := true, threads := 8#8 } }) (fun t =>
      (List.range 8).map (t.mem.readElem .print) = [0#32, 1#32, 0#32, 0#32, 0#32, 0#32, 1#32, 0#32] ∧
      (List.range 2).map (t.mem.readElem .tally) = [6#32, 2#32]) = true := by decide +kernel

/-- V25. -/
theorem test_end :
    nextIs (exec .endRun demo) (fun t => t.status = 0#32 ∧ t.irqPend = 1#3) = true := by decide +kernel

/-- V25: without a run. -/
theorem test_end_without_run :
    nextIs (exec .endRun demoIdle) (fun t => t.status = 0x4204#32) = true := by decide +kernel

/-- V51. -/
theorem test_clrerr :
    nextIs (exec .clrerr { demoError with irqPend := 2#3 }) (fun t => t.status = 0#32 ∧ t.irqPend = 3#3) = true := by
  decide +kernel

/-! The first step after reset, and the host's port (V9, V50). -/

theorem test_step_first_command :
    nextIs (step (State.reset.withFetchWord 32 0x01000000)) (fun t => t.status = 0x1304#32) = true := by decide

theorem test_port_V9 :
    nextIs (Sys2Proof.core.run 3 { State.reset with events := scriptEvents [.memW .pvlut 254#32 [0x1FF#32]] })
      (fun t => t.mem.readElem .pvlut 254 = 0xFF#32 ∧ t.memAddr = 255#32) = true := by decide +kernel

theorem test_port_busy :
    nextIs (step { demoBusy 0#32 with events := [.write (regAddr .memData) 7#32] })
      (fun t => t.irqPend = 4#3 ∧ t.memAddr = 0#32 ∧ t.mem = demoMem) = true := by decide +kernel

theorem test_script_V4 :
    (Stmt.setCfg 16 false false false true true 2 8).events = [.write (regAddr .config) 0x08020310#32] := by decide

/-! Witnesses: for each statement with hypotheses, states and operands that meet them, clause by clause. -/

/-- A next state with a property, as the statements write it. -/
theorem exists_of_nextIs {o : Result} {f : State → Bool} (h : nextIs o f = true) :
    ∃ t, o = .next t ∧ f t = true := by
  cases o with
  | next t => exact ⟨t, rfl, h⟩
  | fault _ => cases h
  | refused _ => cases h

/-- V12 at its smallest: one channel printed by two tasks, with the default hysteresis. -/
def demoNoise : State :=
  let c := { demoCfg with config := 0x08010310#32, hyst := 150#16 }
  { demo with cfg := c, run := latchRun c }

/-- 16-bit samples, kernel 14, 16 channels. -/
def wideCfg : ConfigRegs :=
  { ConfigRegs.reset with
    config := 0x0110006E#32, hyst := 1000#16, inDim := 0xFF0001#24, outDim := 0x00010040#32, lutCtl := 3#2
    dotSize := 65536#17, errSize := 1835008#21 }

/-- A pixel at the left edge of the reverse row of V11, and one at the right edge of the forward row of V10. -/
def atLeft : State := { demo with task := { TaskRegs.idle with y := 1, b := 1, x := 0, step := -1, v8 := 1, q := 144 } }
def atRight : State := { demo with task := { TaskRegs.idle with x := 3, v8 := 65280, q := 51 } }

theorem witness_DecodeOfEncodeIsTheCommand :
    (Instr.row 15 65535).wellFormed = true ∧ (Instr.row 0 0).wellFormed = true ∧ Instr.clrerr.wellFormed = true := by
  decide
theorem witness_EncodeOfDecodeIsTheWord :
    decode 0x02000000#32 = .ok (.row 0 0) ∧ decode 0x02F0FFFF#32 = .ok (.row 15 65535) := by decide
theorem witness_IllegalWordsRaiseIllegalCommand :
    (demoBusy 0x06000000#32).op = .busy true 0x06000000#32 demoCfg ∧
    decode 0x06000000#32 = .error .reservedOpcode ∧ decode 0x00000001#32 = .error .nonZeroField ∧
    decode 0x02010000#32 = .error .nonZeroField ∧ (demoBusy 0x06000000#32).events = [] ∧
    ({ demoBusy 0x06000000#32 with events := [.engine] } : State).events = .engine :: [] := by decide
theorem witness_StepRunsTheAcceptedCommand :
    (demoBusy 0x02000001#32).op = .busy true 0x02000001#32 demoCfg ∧ decode 0x02000001#32 = .ok (.row 0 1) ∧
    (demoBusy 0x02000001#32).events = [] ∧
    ({ demoBusy 0x02000001#32 with events := [.engine] } : State).events = .engine :: [] ∧
    demo.busyFlag = false ∧ demo.events = [] ∧ ({ demo with events := [.engine] } : State).events = .engine :: [] := by decide
theorem witness_CmdWriteFollowsTheOperatingState :
    ({ demoBusy 0#32 with events := [.write (regAddr .cmd) 0#32] } : State).op = .busy true 0#32 demoCfg ∧
    ({ demoError with events := [.write (regAddr .cmd) 0x05000000#32] } : State).op = .error .invalidKernelIndex ∧
    ({ demoError with events := [.write (regAddr .cmd) 0x05000001#32] } : State).op = .error .invalidKernelIndex ∧
    (0x05000001#32 : Word) ≠ 0x05000000#32 ∧
    ({ demoIdle with events := [.write (regAddr .cmd) 0#32] } : State).op = .idle ∧
    ({ demo with events := [.write (regAddr .cmd) 0#32] } : State).op = .ready := by decide
theorem witness_RaisedErrorsChangeNoData :
    (demoBusy 0x06000000#32).errFlag = false ∧
    ∃ t, step (demoBusy 0x06000000#32) = .next t ∧ t.op = .error .illegalCommand := by
  obtain ⟨t, h, hp⟩ := exists_of_nextIs
    (show nextIs (step (demoBusy 0x06000000#32)) (fun t => t.op = .error .illegalCommand) = true by decide +kernel)
  exact ⟨rfl, t, h, of_decide_eq_true hp⟩
theorem witness_ErrorStaysUntilClrerrOrReset :
    demoError.op = .error .invalidKernelIndex ∧ step demoError = .next demoError := ⟨rfl, rfl⟩
theorem witness_ReadyIsSetByInitAlone :
    ({ demoIdle with op := .busy false 0x01000000#32 demoCfg } : State).readyFlag = false ∧
    ∃ t, step { demoIdle with op := .busy false 0x01000000#32 demoCfg } = .next t ∧ t.readyFlag = true :=
  ⟨rfl, exists_of_nextIs (by decide +kernel)⟩
theorem witness_RunChangesOnlyByInitOrReset :
    (∃ t, step { demoIdle with op := .busy false 0x01000000#32 demoCfg } = .next t ∧
      decide (t.run ≠ demoIdle.run) = true) ∧
    (∃ t, step { demo with events := [.write (regAddr .ctrl) 1#32] } = .next t ∧ decide (t.run ≠ demo.run) = true) ∧
    ∃ t, step { demo with events := [.rstn] } = .next t ∧ decide (t.run ≠ demo.run) = true :=
  ⟨exists_of_nextIs (by decide +kernel), exists_of_nextIs (by decide +kernel), exists_of_nextIs (by decide +kernel)⟩
theorem witness_StatusShowsTheOperatingState :
    demoIdle.op = .idle ∧ demo.op = .ready ∧ (demoBusy 0#32).op = .busy true 0#32 demoCfg ∧
    demoError.op = .error .invalidKernelIndex ∧ demoError.errFlag = true ∧ demo.errFlag = false := by decide
theorem witness_EngineTurnEndsBusy :
    ∃ t, engineTurn (demoBusy 0x03000000#32) = .next t ∧ t.readyFlag = true := exists_of_nextIs (by decide +kernel)
theorem witness_ConfigWritesDoNotDisturbTheRunningCommand :
    (demoBusy 0x01000000#32).busyFlag = true ∧
    ∃ t, exec .init (demoBusy 0x01000000#32) = .next t ∧ t.readyFlag = true :=
  ⟨rfl, exists_of_nextIs (by decide +kernel)⟩
theorem witness_CommandsChangeOnlyTheirSpaces :
    (∃ t, exec .nop demo = .next t ∧ t.readyFlag = true) ∧ (∃ t, exec .clrerr demoError = .next t ∧ t.errFlag = false) ∧
    (∃ t, exec .init demo = .next t ∧ t.readyFlag = true) ∧ (∃ t, exec .endRun demo = .next t ∧ t.errFlag = false) ∧
    (∃ t, exec (.row 0 0) demo = .next t ∧ t.readyFlag = true) ∧ (∃ t, exec .band demo = .next t ∧ t.readyFlag = true) :=
  by refine ⟨?_, ?_, ?_, ?_, ?_, ?_⟩ <;> first
    | exact exists_of_nextIs (f := fun t => t.readyFlag) (by decide +kernel)
    | exact (exists_of_nextIs (f := fun t => !t.errFlag) (by decide +kernel)).imp fun _ h => ⟨h.1, by simpa using h.2⟩
theorem witness_NopSetsDoneAlone :
    demo.takes true demoCfg ∧ (demoBusy 0#32).takes true demoCfg ∧ demoIdle.takes false demoCfg ∧
    demoError.op = .error .invalidKernelIndex :=
  ⟨.inl ⟨rfl, rfl⟩, .inr ⟨_, rfl⟩, .inl ⟨rfl, rfl⟩, rfl⟩
theorem witness_EndDiscardsTheErrorBuffer :
    (demoBusy 0x04000000#32).takes true demoCfg ∧ demoIdle.takes false demoCfg ∧
    demoError.op = .error .invalidKernelIndex := ⟨.inr ⟨_, rfl⟩, .inl ⟨rfl, rfl⟩, rfl⟩
theorem witness_ClrerrLeavesTheErrorState :
    demoError.op = .error .invalidKernelIndex ∧ demo.takes true demoCfg ∧ demoIdle.takes false demoCfg :=
  ⟨rfl, .inl ⟨rfl, rfl⟩, .inl ⟨rfl, rfl⟩⟩
/-- Every capacity of R142 at its limit: 16 channels of 1 by 255 samples, 64 columns. -/
theorem witness_InitStartsARun :
    ({ demoIdle with cfg := wideCfg } : State).takes false wideCfg ∧ kernelHeight wideCfg.kernel.toNat = some 4 ∧
    ¬ (wideCfg.in16 = false ∧ wideCfg.img16 = true) ∧ wideCfg.dotValid = true ∧ wideCfg.dotSize.toNat = 65536 ∧
    wideCfg.errValid = true ∧ wideCfg.errSize.toNat = 65536 * (7 * 4) ∧ wideCfg.channels.toNat = 16 ∧
    wideCfg.inw.toNat = 1 ∧ wideCfg.inh.toNat = 255 ∧ wideCfg.outw.toNat = Config.resetParams.ebMaxW ∧
    wideCfg.outh.toNat = 1 ∧ (wideCfg.in16 || wideCfg.rgb) = true ∧
    wideCfg.outw.toNat * wideCfg.outh.toNat ≤ Config.resetParams.pbMaxPix ∧
    wideCfg.inw.toNat * wideCfg.inh.toNat * wideCfg.channels.toNat ≤ Config.resetParams.rasterMax :=
  ⟨.inl ⟨rfl, rfl⟩, by decide⟩
theorem witness_InitLatchesTheDerivedValues :
    initError Config.resetParams wideCfg = none ∧ (latchRun wideCfg).s16 = true ∧
    0 ≤ wideCfg.hyst.toInt ∧ wideCfg.hyst.toInt = 1000 ∧
    initError Config.resetParams { wideCfg with hyst := 1001#16 } = none ∧ 1000 < (1001#16 : BitVec 16).toInt ∧
    initError Config.resetParams { wideCfg with hyst := 0xFFFF#16 } = none ∧ (0xFFFF#16 : BitVec 16).toInt < 0 ∧
    7 < 8 ∧ 8 ≤ 8 ∧ 15 < 16 := by
  decide
theorem witness_LatchedStepsStayInsideTheInput :
    initError Config.resetParams wideCfg = none ∧ 63 < wideCfg.outw.toNat ∧ 0 < wideCfg.outh.toNat := by decide
theorem witness_InitRaisesTheFirstFailingCheck :
    demoIdle.takes false demoCfg ∧ ({ demoIdle with cfg := wideCfg } : State).takes false wideCfg ∧
    16 < (17#5 : BitVec 5).toNat ∧ ({ demoCfg with config := 0x01010111#32 } : ConfigRegs).kernel = 17#5 ∧
    kernelHeight ({ demoCfg with config := 0x01010150#32 } : ConfigRegs).kernel.toNat = some 2 ∧
    ({ demoCfg with config := 0x01010150#32 } : ConfigRegs).in16 = false ∧
    ({ demoCfg with config := 0x01010150#32 } : ConfigRegs).img16 = true ∧
    kernelHeight demoCfg.kernel.toNat = some 2 ∧ demoCfg.img16 = false ∧
    ({ demoCfg with lutCtl := 2#2 } : ConfigRegs).dotValid = false ∧
    ({ demoCfg with lutCtl := 1#2 } : ConfigRegs).errValid = false ∧
    ({ demoCfg with dotSize := 255#17 } : ConfigRegs).dotSize.toNat ≠ 256 ∧
    ({ demoCfg with errSize := 3585#21 } : ConfigRegs).errSize.toNat ≠ 256 * (7 * 2) ∧
    tablesOk demoCfg 2 = true ∧ ({ demoCfg with outDim := 0x00020041#32 } : ConfigRegs).outw.toNat = 65 ∧
    Config.resetParams.ebMaxW < 65 ∧ ({ demoCfg with config := 0x01110110#32 } : ConfigRegs).channels.toNat = 17 :=
  ⟨.inl ⟨rfl, rfl⟩, .inl ⟨rfl, rfl⟩, by decide⟩
theorem witness_LatchedRunFitsTheSpaces :
    (latchRun wideCfg).latched Config.resetParams ∧ 63 < (latchRun wideCfg).outw.toNat ∧
    0 < (latchRun wideCfg).outh.toNat ∧ 15 < (latchRun wideCfg).c.toNat ∧ 3 < (latchRun wideCfg).kh.toNat ∧
    quant 0x7F800000#32 (latchRun wideCfg).m.toNat = 65535 := by
  refine ⟨⟨wideCfg, by decide, rfl⟩, ?_⟩
  decide +kernel
theorem witness_RowRaisesTheFirstFailingCheck :
    demoIdle.takes false demoCfg ∧ demo.takes true demoCfg ∧ demo.run.c.toNat = 1 ∧ demo.run.outh.toNat = 2 ∧
    ({ demo with cfg := { demoCfg with outDim := 0x00020003#32 } } : State).takes true
      { demoCfg with outDim := 0x00020003#32 } ∧
    ({ demoCfg with outDim := 0x00020003#32 } : ConfigRegs).outw ≠ demo.run.outw :=
  ⟨.inl ⟨rfl, rfl⟩, .inl ⟨rfl, rfl⟩, by decide, by decide, .inl ⟨rfl, rfl⟩, by decide⟩
theorem witness_RowTouchesItsOwnCellsAlone :
    demo.takes true demoCfg ∧ demo.run.fits demo.params = true ∧ 0 < demo.run.c.toNat ∧ 1 < demo.run.outh.toNat ∧
    demoCfg.outw = demo.run.outw := ⟨.inl ⟨rfl, rfl⟩, by decide⟩
theorem witness_WorkUnitIsItsSetupAndItsPixels :
    demo.run.serp = true ∧ 65535 % 2 = 1 ∧ 65534 % 2 = 0 ∧ (latchRun wideCfg).serp = false := by decide
theorem witness_ResampleNeedsNoClamp :
    (latchRun wideCfg).m.toNat = (if (latchRun wideCfg).w16 = true then 65535 else 255) ∧
    (latchRun wideCfg).s16 = true ∧ (latchRun wideCfg).w16 = true ∧
    demo.run.m.toNat = (if demo.run.w16 = true then 65535 else 255) ∧ demo.run.s16 = false ∧
    65535 ≤ 65535 ∧ 255 < 256 := by decide
theorem witness_ResampleOnTheGridIsTheSample :
    demo.run.m.toNat = maxPixel demo.run.w16 ∧ demo.run.s16 = false ∧ gridWeight 3 demo.run.xstep.toNat = 0 ∧
    gridWeight 1 demo.run.ystep.toNat = 0 := by decide
theorem witness_StepThreeAddsADrawOfItsSet :
    demo.run.h = 0#10 ∧ demoNoise.task.v8 = 0 ∧
    0 < ({ demoNoise with task := atLeft.task } : State).task.v8 ∧ demoNoise.run.h ≠ 0#10 ∧
    0 < demoNoise.run.nrs.toNat := by decide
theorem witness_AtPixel_left : atLeft.AtPixel := by constructor <;> decide
theorem witness_AtPixel_right : atRight.AtPixel := by constructor <;> decide
theorem witness_DiffusionAddsTheTableRow :
    atLeft.AtPixel ∧ 1 < atLeft.run.kh.toNat ∧
    (0 : Int) = atLeft.task.x + (((3 : Nat) : Int) - 3) * atLeft.task.step ∧
    (3 : Int) = atLeft.task.x + (((0 : Nat) : Int) - 3) * atLeft.task.step ∧ (3 : Int) < (atLeft.run.outw.toNat : Int) :=
  ⟨witness_AtPixel_left, by decide, by decide, by decide, by decide⟩
theorem witness_ShiftMovesTheColumnUp : atRight.AtPixel ∧ 0 + 1 < atRight.run.kh.toNat :=
  ⟨witness_AtPixel_right, by decide⟩
/-- The run of V10 with row 1 of the raster 0, a zero error buffer and a table of zeros; row 0 of the raster is not 0. -/
def demoZero : State :=
  { demo with
    mem := putElems .raster ((demoMem.clearSpace .eb).clearSpace .errtab) ((List.range 4).map (fun i => (4 + i, 0#32))) }
theorem witness_AllZeroRowPrintsDotZero :
    demoZero.takes true demoCfg ∧ demoZero.run.fits demoZero.params = true ∧ 0 < demoZero.run.c.toNat ∧
    1 < demoZero.run.outh.toNat ∧ demoCfg.outw = demoZero.run.outw ∧
    (∀ x xi yi, x < demoZero.run.outw.toNat →
      (xi = x * demoZero.run.xstep.toNat / 65536 ∨
        xi = min (x * demoZero.run.xstep.toNat / 65536 + 1) (demoZero.run.inw.toNat - 1)) →
      (yi = 1 * demoZero.run.ystep.toNat / 65536 ∨
        yi = min (1 * demoZero.run.ystep.toNat / 65536 + 1) (demoZero.run.inh.toNat - 1)) →
      fetchSample demoZero xi yi 0 = 0) ∧
    (∀ col, col < demoZero.run.outw.toNat → demoZero.ebCell (1 % 2) 0 0 col = 0#32) ∧
    (∀ j, j < demoZero.run.ks.toNat → demoZero.mem.readElem .errtab j = 0#32) ∧ fetchSample demoZero 0 0 0 = 100 := by
  have hf : ∀ xi, xi < 4 → fetchSample demoZero xi 1 0 = 0 := by decide +kernel
  have hx : demoZero.run.xstep.toNat = 65536 ∧ demoZero.run.ystep.toNat = 65536 ∧ demoZero.run.inw.toNat = 4 ∧
    demoZero.run.inh.toNat = 2 ∧ demoZero.run.outw.toNat = 4 := by decide
  refine ⟨.inl ⟨rfl, rfl⟩, by decide, by decide, by decide, by decide, ?_, by decide +kernel, by decide +kernel,
    by decide +kernel⟩
  intro x xi yi h h1 h2
  rw [hx.1, hx.2.2.1] at h1
  rw [hx.2.1, hx.2.2.2.1] at h2
  obtain rfl : yi = 1 := by omega
  exact hf xi (by omega)
theorem witness_TalliesCountThePrintedDots :
    (∀ l ∈ ({ demo with finished := [[(0, 1#32), (4095, 2#32)], []] } : State).finished, (l.map Prod.fst).Nodup) ∧
    (demoBusy 0x02000001#32).takes true demoCfg ∧ demo.run.fits demo.params = true ∧ 0 < demo.run.c.toNat ∧
    1 < demo.run.outh.toNat ∧ demoCfg.outw = demo.run.outw ∧ 15 < 16 ∧ 255 < 256 :=
  ⟨by decide, .inr ⟨_, rfl⟩, by decide⟩
theorem witness_inksDistinct : demo.run.inksDistinct := by
  intro c d hc hd _
  have : demo.run.c.toNat = 1 := by decide
  omega
theorem witness_inksDistinct_all : (latchRun wideCfg).inksDistinct := by
  have h : ∀ c, c < 16 → ∀ d, d < 16 → (latchRun wideCfg).inkOf c = (latchRun wideCfg).inkOf d → c = d := by
    decide +kernel
  have hc : (latchRun wideCfg).c.toNat = 16 := by decide
  intro c d h1 h2 he
  exact h c (hc ▸ h1) d (hc ▸ h2) he
theorem witness_WithoutNoiseSeedAndDrawsHaveNoEffect :
    demo.run.h = 0#10 ∧ demo.run.inksDistinct ∧ demo.run.par = false ∧
    (∃ t, exec .band demo = .next t ∧ t.readyFlag = true) ∧ (∃ t, exec (.row 0 1) demo = .next t ∧ t.readyFlag = true) :=
  ⟨by decide, witness_inksDistinct, by decide, exists_of_nextIs (by decide +kernel), exists_of_nextIs (by decide +kernel)⟩
theorem witness_BandRaisesTheFirstFailingCheck :
    demoIdle.takes false demoCfg ∧
    ({ demo with cfg := { demoCfg with outDim := 0x00020005#32 } } : State).takes true
      { demoCfg with outDim := 0x00020005#32 } ∧
    ({ demoCfg with outDim := 0x00020005#32 } : ConfigRegs).outw ≠ demo.run.outw :=
  ⟨.inl ⟨rfl, rfl⟩, .inl ⟨rfl, rfl⟩, by decide⟩
theorem witness_PartitionFollowsTheThreadBudget :
    (demoNoise.run.par = true ∧ 8 ≤ demoNoise.run.threads.toNat) ∧ (4 ≤ 4 ∧ 7 ≤ 7) ∧ (2 ≤ 2 ∧ 3 ≤ 3) ∧
    demo.run.par = false ∧ 1 < 2 := by decide
theorem witness_TaskListsAscendPerKey : [(0, 0), (0, 2)] ∈ partition true 8 2 3 := by decide
theorem witness_BandDoesNotDependOnThePartition :
    demoNoise.takes true demoNoise.cfg ∧ demoNoise.run.fits demoNoise.params = true ∧
    demoNoise.cfg.outw = demoNoise.run.outw ∧ demoNoise.run.inksDistinct := by
  refine ⟨.inl ⟨rfl, rfl⟩, by decide, by decide, ?_⟩
  intro c d hc hd _
  have : demoNoise.run.c.toNat = 1 := by decide
  omega
theorem witness_BandTouchesTheRunsCellsAlone :
    demoNoise.takes true demoNoise.cfg ∧ demoNoise.run.fits demoNoise.params = true ∧
    demoNoise.cfg.outw = demoNoise.run.outw ∧ demoNoise.run.inksDistinct ∧ 2 ≤ demoNoise.run.tasks.length ∧
    demo.takes true demoCfg ∧ demo.run.fits demo.params = true ∧ demoCfg.outw = demo.run.outw ∧ demo.run.par = false :=
  ⟨.inl ⟨rfl, rfl⟩, by decide, by decide, witness_BandDoesNotDependOnThePartition.2.2.2, by decide, .inl ⟨rfl, rfl⟩,
    by decide⟩
theorem witness_BandOfOneTaskIsItsRows :
    demo.op = .ready ∧ demo.run.fits demo.params = true ∧ demo.cfg.outw = demo.run.outw ∧ demo.run.h = 0#10 ∧
    demo.run.par = false := by decide
theorem witness_FaddIsCorrectlyRounded :
    f32IsNaN 0x7F800001#32 = true ∧ f32IsInf 0x7F800000#32 = true ∧ f32IsInf 0xFF800000#32 = true ∧
    f32Neg 0x7F800000#32 ≠ f32Neg 0xFF800000#32 ∧ f32Finite 0x7F7FFFFF#32 ∧ f32Finite 0x73000000#32 ∧
    f32Units 0x7F7FFFFF#32 + f32Units 0x73000000#32 = (2 ^ 25 - 1) * 2 ^ 252 ∧
    f32Units 0xFF7FFFFF#32 + f32Units 0xF3000000#32 = -((2 ^ 25 - 1) * 2 ^ 252) ∧
    f32Units 0x80000000#32 + f32Units 0x80000000#32 = 0 ∧
    |f32Units 0x7F7FFFFF#32 + f32Units 0x72FFFFFF#32| < (2 ^ 25 - 1) * 2 ^ 252 := by
  unfold f32Finite; decide +kernel
/-- A tie: 1 and its successor are equally near to the exact sum. -/
theorem witness_FaddIsCorrectlyRounded_tie :
    f32Units 0x3F800001#32 ≠ f32Units (fadd32 0x3F800000#32 0x33800000#32) ∧
    |f32Units 0x3F800001#32 - (f32Units 0x3F800000#32 + f32Units 0x33800000#32)| =
      |f32Units (fadd32 0x3F800000#32 0x33800000#32) - (f32Units 0x3F800000#32 + f32Units 0x33800000#32)| := by
  decide +kernel
theorem witness_FixConversionIsExact : |(16777215 : Int)| < 2 ^ 24 ∧ |(-16777215 : Int)| < 2 ^ 24 := by decide
theorem witness_QuantClampsAndRoundsHalfUp :
    f32IsNaN 0x7FC00000#32 = true ∧ f32IsInf 0xFF800000#32 = true ∧ f32Finite 0x80000000#32 ∧
    f32Units 0x80000000#32 ≤ 0 ∧ f32Units 0x437F0000#32 = 255 * 2 ^ 149 ∧ 0 < f32Units 0x00000001#32 ∧
    f32Units 0x437EFFFF#32 < 255 * 2 ^ 149 := by unfold f32Finite; decide +kernel
theorem witness_MemPortAccessInRangeIsPerformed :
    demo.busyFlag = false ∧ demo.memSel = 0#3 ∧ ({ demo with memAddr := 65535#32 } : State).memAddr.toNat < 65536 ∧
    ({ demo with memSel := 7#3, memAddr := 4095#32 } : State).memAddr.toNat < 4096 ∧
    ({ demo with events := [.read 0x17#6] } : State).events = .read 0x17#6 :: [] ∧
    ({ demo with events := [.write 0x17#6 0x1FF#32] } : State).events = .write 0x17#6 0x1FF#32 :: [] := by decide
theorem witness_MemPortAccessOutOfRangeIsIgnored :
    demo.busyFlag = false ∧ demo.memSel = 0#3 ∧ 65536 ≤ ({ demo with memAddr := 65536#32 } : State).memAddr.toNat ∧
    4096 ≤ ({ demo with memSel := 7#3, memAddr := 4096#32 } : State).memAddr.toNat := by
  decide
theorem witness_MemPortAccessWhileBusyIsIgnored :
    ({ demoBusy 0#32 with events := [.read (regAddr .memData)] } : State).busyFlag = true ∧
    ({ demoBusy 0#32 with events := [.write (regAddr .memAddr) 9#32] } : State).events =
      .write (regAddr .memAddr) 9#32 :: [] := by decide
theorem witness_RegistersReadBackTheirImplementedBits :
    Reg.memAddr ≠ .memData ∧ Reg.id ≠ .cmd ∧ Reg.id ≠ .ctrl ∧
    ({ demo with events := [.read (regAddr .memAddr)] } : State).events = .read (regAddr .memAddr) :: [] ∧
    ({ demo with events := [.write (regAddr .id) 1#32] } : State).events = .write (regAddr .id) 1#32 :: [] := by decide
theorem witness_ReservedOffsetsReadZero :
    0x18 ≤ (0x18#6 : BitVec 6).toNat ∧ 0x18 ≤ (0x3F#6 : BitVec 6).toNat ∧
    ({ demo with events := [.read 0x18#6] } : State).events = .read 0x18#6 :: [] := by decide
theorem witness_SoftResetKeepsTheMemories :
    ({ demo with events := [.write (regAddr .ctrl) 1#32] } : State).events = .write (regAddr .ctrl) 1#32 :: [] ∧
    (1#32 : Word).getLsbD 0 = true ∧ (2#32 : Word).getLsbD 0 = false ∧ demo.busyFlag = false ∧
    (demoBusy 0#32).busyFlag = true := by decide
theorem witness_HardwareResetLosesTheMemories :
    ({ demoBusy 0#32 with events := [.rstn] } : State).events = .rstn :: [] := by decide
theorem witness_InvHoldsAtReset :
    Config.resetParams.ok = true ∧
    Config.Params.ok { ebMaxW := 1, pbMaxPix := 1, rasterMax := 1, nLanes := 1 } = true ∧
    Config.Params.ok { ebMaxW := 65535, pbMaxPix := 268435455, rasterMax := 4294967295, nLanes := 1 } = true := by
  decide
/-- BAND accepted in the run of V10: the invariant holds, no byte is listed outside a space, and the step answers. -/
theorem witness_EveryStepKeepsTheInvariant :
    (demoBusy 0x03000000#32).Inv ∧ ∃ t, step (demoBusy 0x03000000#32) = .next t ∧ t.readyFlag = true := by
  refine ⟨⟨by decide, by decide +kernel, ?_, ?_, rfl, rfl, fun _ => ⟨demoCfg, by decide, rfl⟩⟩,
    exists_of_nextIs (by decide +kernel)⟩ <;> · unfold ConfigRegs.reservedClear; decide
theorem witness_WritesStayInsideTheSpaces : (demoBusy 0x03000000#32).mem.within (demoBusy 0x03000000#32).params := by
  intro id
  unfold Space.within
  cases id <;> decide +kernel
theorem witness_NoScriptStopsTheMachine :
    Config.resetParams.ok = true ∧ (scriptEvents [.run]).length = 9 := by decide

end Sys2Proof.Machine
end

section
/-! The binary32 primitives of 00_scope.md (R10 to R13). The exponent and fraction bits of a pattern, read as one
number, list the finite magnitudes in rising order; a sum lies between two neighbours of that list, and rounding
takes the nearer one. -/

namespace Sys2Proof.Machine

/-! The fields of a pattern (R10). -/

theorem f32Exp_eq (p : F32) : f32Exp p = p.toNat / 2 ^ 23 % 2 ^ 8 := by
  rw [f32Exp, BitVec.extractLsb'_toNat, Nat.shiftRight_eq_div_pow]

theorem f32Frac_eq (p : F32) : f32Frac p = p.toNat % 2 ^ 23 := by
  rw [f32Frac, BitVec.extractLsb'_toNat, Nat.shiftRight_zero]

theorem f32Neg_eq (p : F32) : f32Neg p = decide (2 ^ 31 ≤ p.toNat) := BitVec.msb_eq_decide p

theorem f32IsNaN_iff (p : F32) : f32IsNaN p = true ↔ f32Exp p = 255 ∧ f32Frac p ≠ 0 := by simp [f32IsNaN]

theorem f32IsInf_iff (p : F32) : f32IsInf p = true ↔ f32Exp p = 255 ∧ f32Frac p = 0 := by simp [f32IsInf]

theorem not_isNaN_of_finite {p : F32} (h : f32Finite p) : ¬ f32IsNaN p = true :=
  fun hn => h ((f32IsNaN_iff p).1 hn).1

theorem not_isInf_of_finite {p : F32} (h : f32Finite p) : ¬ f32IsInf p = true :=
  fun hi => h ((f32IsInf_iff p).1 hi).1

theorem not_isNaN_of_isInf {p : F32} (h : f32IsInf p = true) : ¬ f32IsNaN p = true :=
  fun hn => ((f32IsNaN_iff p).1 hn).2 ((f32IsInf_iff p).1 h).2

theorem finite_of_not_isNaN_of_not_isInf {p : F32} (hn : ¬ f32IsNaN p = true) (hi : ¬ f32IsInf p = true) :
    f32Finite p := by
  rw [f32IsNaN_iff] at hn
  rw [f32IsInf_iff] at hi
  unfold f32Finite
  tauto

/-- There is one infinity per sign. -/
theorem eq_of_isInf_of_neg_eq {a b : F32} (ha : f32IsInf a = true) (hb : f32IsInf b = true)
    (hs : f32Neg a = f32Neg b) : a = b := by
  obtain ⟨hae, haf⟩ := (f32IsInf_iff a).1 ha
  obtain ⟨hbe, hbf⟩ := (f32IsInf_iff b).1 hb
  rw [f32Exp_eq] at hae hbe
  rw [f32Frac_eq] at haf hbf
  simp only [f32Neg_eq, decide_eq_decide] at hs
  apply BitVec.eq_of_toNat_eq
  omega

/-- The value of a pattern by its sign (R10). -/
theorem f32Units_of_neg {p : F32} (h : f32Neg p = true) : f32Units p = -(f32Mag p : Int) := by simp [f32Units, h]

theorem f32Units_of_not_neg {p : F32} (h : ¬ f32Neg p = true) : f32Units p = (f32Mag p : Int) := by
  simp [f32Units, h]

/-! The magnitudes as a rising list. -/

/-- The magnitude, in units of 2^-149, of the exponent and fraction bits `r` (R10), continued beyond exponent 254. -/
def f32BitsMag (r : Nat) : Nat :=
  if r / 2 ^ 23 = 0 then r % 2 ^ 23 else (2 ^ 23 + r % 2 ^ 23) * 2 ^ (r / 2 ^ 23 - 1)

theorem f32Mag_eq_bitsMag (p : F32) : f32Mag p = f32BitsMag (p.toNat % 2 ^ 31) := by
  have he : p.toNat % 2 ^ 31 / 2 ^ 23 = p.toNat / 2 ^ 23 % 2 ^ 8 := by omega
  have hf : p.toNat % 2 ^ 31 % 2 ^ 23 = p.toNat % 2 ^ 23 := by omega
  rw [f32Mag, f32BitsMag, f32Exp_eq, f32Frac_eq, he, hf]

theorem f32BitsMag_of_le {n : Nat} (h : n ≤ 2 ^ 24) : f32BitsMag n = n := by
  unfold f32BitsMag
  split
  · omega
  · have : n / 2 ^ 23 = 1 ∨ n = 2 ^ 24 := by omega
    rcases this with h1 | rfl
    · rw [h1]; omega
    · rfl

/-- A normal magnitude `q * 2^k`; the carry `q = 2^24` runs into the next exponent. -/
theorem f32BitsMag_normal {k q : Nat} (hlo : 2 ^ 23 ≤ q) (hhi : q ≤ 2 ^ 24) :
    f32BitsMag (k * 2 ^ 23 + q) = q * 2 ^ k := by
  rcases Nat.lt_or_eq_of_le hhi with hlt | rfl
  · have hexp : (k * 2 ^ 23 + q) / 2 ^ 23 = k + 1 := by omega
    have hfrac : (k * 2 ^ 23 + q) % 2 ^ 23 = q - 2 ^ 23 := by omega
    rw [f32BitsMag, hexp, hfrac, if_neg (by omega), Nat.add_sub_cancel, Nat.add_sub_cancel' hlo]
  · have hexp : (k * 2 ^ 23 + 2 ^ 24) / 2 ^ 23 = k + 2 := by omega
    have hfrac : (k * 2 ^ 23 + 2 ^ 24) % 2 ^ 23 = 0 := by omega
    rw [f32BitsMag, hexp, hfrac, if_neg (by omega), show k + 2 - 1 = k + 1 by omega]
    ring

/-- Every bit pattern above the subnormals is a normal one. -/
theorem exists_normal_bits {r : Nat} (h : 2 ^ 23 ≤ r) :
    ∃ k q, 2 ^ 23 ≤ q ∧ q < 2 ^ 24 ∧ r = k * 2 ^ 23 + q :=
  ⟨r / 2 ^ 23 - 1, 2 ^ 23 + r % 2 ^ 23, by omega, by omega, by omega⟩

theorem f32BitsMag_strictMono : StrictMono f32BitsMag := by
  refine strictMono_nat_of_lt_succ fun r => ?_
  by_cases h : r < 2 ^ 23
  · rw [f32BitsMag_of_le (by omega), f32BitsMag_of_le (by omega)]
    exact Nat.lt_succ_self r
  · obtain ⟨k, q, hlo, hhi, rfl⟩ := exists_normal_bits (Nat.le_of_not_lt h)
    rw [f32BitsMag_normal hlo hhi.le, Nat.add_assoc, f32BitsMag_normal (by omega) hhi]
    exact Nat.mul_lt_mul_of_pos_right (Nat.lt_succ_self q) (Nat.two_pow_pos k)

/-- Twice a representable magnitude is representable. -/
theorem exists_bitsMag_double (r : Nat) : ∃ r', f32BitsMag r' = 2 * f32BitsMag r := by
  by_cases h : r < 2 ^ 23
  · exact ⟨2 * r, by rw [f32BitsMag_of_le (by omega), f32BitsMag_of_le (by omega)]⟩
  · obtain ⟨k, q, hlo, hhi, rfl⟩ := exists_normal_bits (Nat.le_of_not_lt h)
    exact ⟨(k + 1) * 2 ^ 23 + q, by rw [f32BitsMag_normal hlo hhi.le, f32BitsMag_normal hlo hhi.le]; ring⟩

/-- An integer of 24 bits, scaled by a power of two, is representable. -/
theorem exists_bitsMag_scaled {m : Nat} (h : m < 2 ^ 24) (j : Nat) : ∃ r, f32BitsMag r = m * 2 ^ j := by
  induction j with
  | zero => exact ⟨m, by rw [f32BitsMag_of_le h.le, pow_zero, Nat.mul_one]⟩
  | succ j ih =>
    obtain ⟨r, hr⟩ := ih
    obtain ⟨r', hr'⟩ := exists_bitsMag_double r
    exact ⟨r', by rw [hr', hr]; ring⟩

/-! Rounding (R11). -/

/-- The fraction `q`, the exponent `k` and the remainder of a magnitude that needs rounding. -/
theorem f32RoundMag_normal {n k q : Nat} (hk : 1 ≤ k) (hlo : 2 ^ 23 ≤ q) (hhi : q < 2 ^ 24) {rem : Nat}
    (hrem : rem < 2 ^ k) (hn : n = q * 2 ^ k + rem) :
    f32RoundMag n = k * 2 ^ 23 + q +
      if 2 ^ (k - 1) < rem ∨ (rem = 2 ^ (k - 1) ∧ q % 2 = 1) then 1 else 0 := by
  have hpos : 0 < 2 ^ k := Nat.two_pow_pos k
  have hge : 2 ^ (23 + k) ≤ n := by
    rw [pow_add, hn]
    exact (Nat.mul_le_mul_right _ hlo).trans (Nat.le_add_right _ _)
  have hlt : n < 2 ^ (23 + k + 1) := by
    calc n < (q + 1) * 2 ^ k := by rw [hn, Nat.add_mul]; omega
      _ ≤ 2 ^ 24 * 2 ^ k := Nat.mul_le_mul_right _ hhi
      _ = 2 ^ (23 + k + 1) := by ring
  have hlog : n.log2 - 23 = k := by
    have := (Nat.log2_eq_iff (by have := Nat.two_pow_pos (23 + k); omega)).2 ⟨hge, hlt⟩
    omega
  have hsmall : ¬ n < 2 ^ 24 :=
    Nat.not_lt.2 ((Nat.pow_le_pow_right (by decide) (by omega : 24 ≤ 23 + k)).trans hge)
  have hdiv : n / 2 ^ k = q := by
    rw [hn, Nat.mul_comm, Nat.mul_add_div hpos, Nat.div_eq_of_lt hrem, Nat.add_zero]
  have hmod : n % 2 ^ k = rem := by
    rw [hn, Nat.mul_comm, Nat.mul_add_mod, Nat.mod_eq_of_lt hrem]
  simp only [f32RoundMag, if_neg hsmall, hlog, hdiv, hmod]

theorem f32RoundMag_of_lt {n : Nat} (h : n < 2 ^ 24) : f32RoundMag n = n := if_pos h

/-- Every magnitude that needs rounding has a fraction, an exponent and a remainder. -/
theorem exists_normal_mag {n : Nat} (h : 2 ^ 24 ≤ n) :
    ∃ k q rem, 1 ≤ k ∧ 2 ^ 23 ≤ q ∧ q < 2 ^ 24 ∧ rem < 2 ^ k ∧ n = q * 2 ^ k + rem := by
  have hn : n ≠ 0 := by omega
  have hlog : 24 ≤ n.log2 := (Nat.le_log2 hn).2 h
  obtain ⟨k, hk⟩ : ∃ k, n.log2 = 23 + k := ⟨n.log2 - 23, by omega⟩
  obtain ⟨hge, hlt⟩ := (Nat.log2_eq_iff hn).1 hk
  have hpos : 0 < 2 ^ k := Nat.two_pow_pos k
  refine ⟨k, n / 2 ^ k, n % 2 ^ k, by omega, ?_, ?_, Nat.mod_lt _ hpos, (Nat.div_add_mod' n (2 ^ k)).symm⟩
  · rwa [Nat.le_div_iff_mul_le hpos, ← pow_add]
  · rw [Nat.div_lt_iff_lt_mul hpos]
    exact hlt.trans_eq (by ring)

/-- What rounding does: `n` lies between the magnitudes of two neighbours `r` and `r + 1`, and the answer is the
nearer one, or the even one when both are as near. -/
theorem f32RoundMag_between (n : Nat) :
    ∃ r, f32BitsMag r ≤ n ∧ n < f32BitsMag (r + 1) ∧
      ((f32RoundMag n = r ∧ (2 * n < f32BitsMag r + f32BitsMag (r + 1) ∨
          (2 * n = f32BitsMag r + f32BitsMag (r + 1) ∧ r % 2 = 0))) ∨
        (f32RoundMag n = r + 1 ∧ (f32BitsMag r + f32BitsMag (r + 1) < 2 * n ∨
          (2 * n = f32BitsMag r + f32BitsMag (r + 1) ∧ r % 2 = 1)))) := by
  by_cases h : n < 2 ^ 24
  · refine ⟨n, ?_⟩
    rw [f32BitsMag_of_le h.le, f32BitsMag_of_le h, f32RoundMag_of_lt h]
    omega
  · obtain ⟨k, q, rem, hk, hlo, hhi, hrem, hn⟩ := exists_normal_mag (Nat.le_of_not_lt h)
    have hhalf : 2 ^ k = 2 * 2 ^ (k - 1) := by rw [← pow_succ', Nat.sub_add_cancel hk]
    refine ⟨k * 2 ^ 23 + q, ?_⟩
    rw [f32RoundMag_normal hk hlo hhi hrem hn, f32BitsMag_normal hlo hhi.le, Nat.add_assoc (k * 2 ^ 23),
      f32BitsMag_normal (by omega) hhi, Nat.succ_mul]
    generalize q * 2 ^ k = lo at *
    split <;> omega

/-- A representable magnitude is its own rounding. -/
theorem f32RoundMag_bitsMag (r : Nat) : f32RoundMag (f32BitsMag r) = r := by
  obtain ⟨r', hlo, hhi, hround⟩ := f32RoundMag_between (f32BitsMag r)
  have h1 : r' ≤ r := f32BitsMag_strictMono.le_iff_le.1 hlo
  have h2 : r < r' + 1 := f32BitsMag_strictMono.lt_iff_lt.1 hhi
  obtain rfl : r' = r := by omega
  omega

/-- No magnitude is nearer to `n` than its rounding; one as near leaves the rounding even (R11). -/
theorem f32RoundMag_nearest (n r : Nat) :
    |(f32BitsMag (f32RoundMag n) : Int) - n| ≤ |(f32BitsMag r : Int) - n| ∧
    (f32BitsMag r ≠ f32BitsMag (f32RoundMag n) →
      |(f32BitsMag r : Int) - n| = |(f32BitsMag (f32RoundMag n) : Int) - n| → f32RoundMag n % 2 = 0) := by
  obtain ⟨r', hlo, hhi, hround⟩ := f32RoundMag_between n
  have hside : f32BitsMag r ≤ f32BitsMag r' ∨ f32BitsMag (r' + 1) ≤ f32BitsMag r := by
    rcases Nat.lt_or_ge r' r with hr | hr
    · exact .inr (f32BitsMag_strictMono.monotone hr)
    · exact .inl (f32BitsMag_strictMono.monotone hr)
  simp only [Int.abs_eq_natAbs]
  rcases hround with ⟨hr, hnear⟩ | ⟨hr, hnear⟩
  · rw [hr]; omega
  · rw [hr]; omega

/-- The exponent and fraction bits of the largest finite magnitude. -/
def f32MaxBits : Nat := 255 * 2 ^ 23 - 1

theorem f32MaxBits_eq : f32MaxBits = 253 * 2 ^ 23 + (2 ^ 24 - 1) := by decide

theorem f32BitsMag_maxBits : f32BitsMag f32MaxBits = (2 ^ 24 - 1) * 2 ^ 253 := by
  rw [f32MaxBits_eq, f32BitsMag_normal (by decide) (by decide)]

theorem f32BitsMag_maxBits_succ : f32BitsMag (f32MaxBits + 1) = 2 ^ 24 * 2 ^ 253 := by
  rw [f32MaxBits_eq, Nat.add_assoc, Nat.sub_add_cancel (by decide), f32BitsMag_normal (by decide) (by decide)]

/-- Rounding passes the largest finite magnitude exactly from half a step above it on (R11). -/
theorem f32MaxBits_lt_roundMag_iff (n : Nat) : f32MaxBits < f32RoundMag n ↔ (2 ^ 25 - 1) * 2 ^ 252 ≤ n := by
  obtain ⟨r, hlo, hhi, hround⟩ := f32RoundMag_between n
  have hodd : f32MaxBits % 2 = 1 := by decide
  have hmax := f32BitsMag_maxBits
  have hover := f32BitsMag_maxBits_succ
  rcases Nat.lt_trichotomy r f32MaxBits with h | rfl | h
  · have hle : f32BitsMag (r + 1) ≤ f32BitsMag f32MaxBits := f32BitsMag_strictMono.monotone h
    omega
  · omega
  · have hle : f32BitsMag (f32MaxBits + 1) ≤ f32BitsMag r := f32BitsMag_strictMono.monotone h
    omega

/-! A rounded pattern. -/

theorem f32Round_toNat (neg : Bool) (n : Nat) :
    (f32Round neg n).toNat = (if neg then 2 ^ 31 else 0) + min (f32RoundMag n) 0x7F800000 := by
  rw [f32Round, BitVec.toNat_ofNat, Nat.mod_eq_of_lt]
  split <;> omega

/-- From half a step above the largest finite magnitude on: infinity. -/
theorem f32Round_overflow {n : Nat} (neg : Bool) (h : (2 ^ 25 - 1) * 2 ^ 252 ≤ n) :
    f32Round neg n = if neg then 0xFF800000#32 else 0x7F800000#32 := by
  have hbits : 0x7F800000 ≤ f32RoundMag n := (f32MaxBits_lt_roundMag_iff n).2 h
  rw [f32Round, Nat.min_eq_right hbits]
  cases neg <;> rfl

section
variable {n : Nat} (neg : Bool) (h : n < (2 ^ 25 - 1) * 2 ^ 252)
include h

/-- Below that, the sign and the rounded magnitude bits stand side by side. -/
theorem f32Round_toNat_of_lt :
    f32RoundMag n < 0x7F800000 ∧ (f32Round neg n).toNat = (if neg then 2 ^ 31 else 0) + f32RoundMag n := by
  have hbits : f32RoundMag n < 0x7F800000 :=
    Nat.lt_succ_of_le (Nat.not_lt.1 (mt (f32MaxBits_lt_roundMag_iff n).1 (Nat.not_le.2 h)))
  exact ⟨hbits, by rw [f32Round_toNat, Nat.min_eq_left hbits.le]⟩

theorem f32Round_finite : f32Finite (f32Round neg n) := by
  obtain ⟨hbits, hnat⟩ := f32Round_toNat_of_lt neg h
  rw [f32Finite, f32Exp_eq, hnat]
  split <;> omega

theorem f32Round_frac_mod_two : f32Frac (f32Round neg n) % 2 = f32RoundMag n % 2 := by
  obtain ⟨hbits, hnat⟩ := f32Round_toNat_of_lt neg h
  rw [f32Frac_eq, hnat]
  split <;> omega

theorem f32Units_round :
    f32Units (f32Round neg n) = (if neg then -1 else 1) * (f32BitsMag (f32RoundMag n) : Int) := by
  obtain ⟨hbits, hnat⟩ := f32Round_toNat_of_lt neg h
  have hlow : (f32Round neg n).toNat % 2 ^ 31 = f32RoundMag n := by
    rw [hnat]
    split <;> omega
  have hneg : f32Neg (f32Round neg n) = neg := by
    rw [f32Neg_eq, hnat]
    cases neg
    · exact decide_eq_false (by simp only [Bool.false_eq_true, if_false]; omega)
    · exact decide_eq_true (Nat.le_add_right _ _)
  rw [f32Units, hneg, f32Mag_eq_bitsMag, hlow]
  cases neg <;> simp

end

end Sys2Proof.Machine
end

section
/-! `fadd32` (R11), `f32_fix8` (R12) and `quant` (R13). -/

namespace Sys2Proof.Machine

/-! `fadd32`, case by case. -/

theorem fadd32_of_isNaN {a b : F32} (h : f32IsNaN a = true ∨ f32IsNaN b = true) : fadd32 a b = f32NaN := if_pos h

theorem fadd32_opposite_infs {a b : F32} (ha : f32IsInf a = true) (hb : f32IsInf b = true)
    (hs : f32Neg a ≠ f32Neg b) : fadd32 a b = f32NaN := by
  simp [fadd32, ha, hb, hs]

theorem fadd32_inf_left {a b : F32} (ha : f32IsInf a = true) (hb : f32Finite b ∨ b = a) : fadd32 a b = a := by
  have hna := not_isNaN_of_isInf ha
  rcases hb with hb | rfl
  · simp [fadd32, hna, ha, not_isNaN_of_finite hb, not_isInf_of_finite hb]
  · simp [fadd32, hna, ha]

theorem fadd32_inf_right {a b : F32} (ha : f32Finite a) (hb : f32IsInf b = true) : fadd32 a b = b := by
  simp [fadd32, not_isNaN_of_finite ha, not_isInf_of_finite ha, not_isNaN_of_isInf hb, hb]

theorem fadd32_zero_sum {a b : F32} (ha : f32Finite a) (hb : f32Finite b) (h : f32Units a + f32Units b = 0) :
    fadd32 a b = if a = 0x80000000#32 ∧ b = 0x80000000#32 then 0x80000000#32 else 0#32 := by
  simp [fadd32, not_isNaN_of_finite ha, not_isNaN_of_finite hb, not_isInf_of_finite ha, not_isInf_of_finite hb, h]

theorem fadd32_nonzero_sum {a b : F32} (ha : f32Finite a) (hb : f32Finite b) (h : f32Units a + f32Units b ≠ 0) :
    fadd32 a b = f32Round (decide (f32Units a + f32Units b < 0)) (f32Units a + f32Units b).natAbs := by
  simp [fadd32, not_isNaN_of_finite ha, not_isNaN_of_finite hb, not_isInf_of_finite ha, not_isInf_of_finite hb, h]

/-- Every branch is symmetric but that of the infinities, and two infinities of one sign are one pattern. -/
theorem fadd32_comm (a b : F32) : fadd32 a b = fadd32 b a := by
  by_cases hnan : f32IsNaN a = true ∨ f32IsNaN b = true
  · rw [fadd32_of_isNaN hnan, fadd32_of_isNaN hnan.symm]
  obtain ⟨hna, hnb⟩ := not_or.1 hnan
  by_cases ha : f32IsInf a = true
  · by_cases hb : f32IsInf b = true
    · by_cases hs : f32Neg a = f32Neg b
      · rw [eq_of_isInf_of_neg_eq ha hb hs]
      · rw [fadd32_opposite_infs ha hb hs, fadd32_opposite_infs hb ha (Ne.symm hs)]
    · have hfb := finite_of_not_isNaN_of_not_isInf hnb hb
      rw [fadd32_inf_left ha (.inl hfb), fadd32_inf_right hfb ha]
  · have hfa := finite_of_not_isNaN_of_not_isInf hna ha
    by_cases hb : f32IsInf b = true
    · rw [fadd32_inf_right hfa hb, fadd32_inf_left hb (.inl hfa)]
    · have hfb := finite_of_not_isNaN_of_not_isInf hnb hb
      have hcomm := Int.add_comm (f32Units a) (f32Units b)
      by_cases hS : f32Units a + f32Units b = 0
      · simp only [fadd32_zero_sum hfa hfb hS, fadd32_zero_sum hfb hfa (hcomm ▸ hS), and_comm]
      · rw [fadd32_nonzero_sum hfa hfb hS, fadd32_nonzero_sum hfb hfa (hcomm ▸ hS), hcomm]

/-! The nearest pattern. -/

/-- The two halves of R11's rule for a finite sum: no finite pattern is nearer to `S` than `r`, and another one as
near leaves `r` with an even fraction. -/
def F32Nearest (S : Int) (r : F32) : Prop :=
  (∀ p, f32Finite p → |f32Units r - S| ≤ |f32Units p - S|) ∧
  (∀ p, f32Finite p → f32Units p ≠ f32Units r → |f32Units p - S| = |f32Units r - S| → f32Frac r % 2 = 0)

/-- The value of either zero is exact. -/
theorem f32Nearest_zero {r : F32} (hr : r = 0#32 ∨ r = 0x80000000#32) : F32Nearest 0 r := by
  have hunits : f32Units r = 0 := by rcases hr with rfl | rfl <;> decide
  have hfrac : f32Frac r = 0 := by rcases hr with rfl | rfl <;> decide
  refine ⟨fun p _ => ?_, fun p _ _ _ => by rw [hfrac]⟩
  rw [hunits, sub_zero, abs_zero]
  exact abs_nonneg _

theorem natAbs_f32Units (p : F32) : (f32Units p).natAbs = f32BitsMag (p.toNat % 2 ^ 31) := by
  rw [← f32Mag_eq_bitsMag]
  unfold f32Units
  split <;> simp

/-- Rounding the magnitude and keeping the sign gives the nearest pattern: a pattern of the other sign is never
nearer than zero is. -/
theorem f32Nearest_round {S : Int} (hS : S ≠ 0) (hlt : S.natAbs < (2 ^ 25 - 1) * 2 ^ 252) :
    F32Nearest S (f32Round (decide (S < 0)) S.natAbs) := by
  have hunits : f32Units (f32Round (decide (S < 0)) S.natAbs) =
      if S < 0 then -(f32BitsMag (f32RoundMag S.natAbs) : Int) else f32BitsMag (f32RoundMag S.natAbs) := by
    rw [f32Units_round _ hlt]
    split <;> simp_all
  have hnear (p : F32) := f32RoundMag_nearest S.natAbs (p.toNat % 2 ^ 31)
  simp only [← natAbs_f32Units, Int.abs_eq_natAbs, F32Nearest, f32Round_frac_mod_two _ hlt, hunits] at hnear ⊢
  refine ⟨fun p _ => ?_, fun p _ hne htie => ?_⟩
  · obtain ⟨hle, -⟩ := hnear p
    split <;> omega
  · obtain ⟨hle, heven⟩ := hnear p
    have hmag : (f32Units p).natAbs ≠ f32BitsMag (f32RoundMag S.natAbs) := by
      split at hne <;> omega
    exact heven hmag (by split at htie <;> omega)

/-- R11's finite case. -/
theorem fadd32_finite_sum {a b : F32} (ha : f32Finite a) (hb : f32Finite b)
    (hlt : (f32Units a + f32Units b).natAbs < (2 ^ 25 - 1) * 2 ^ 252) :
    f32Finite (fadd32 a b) ∧ F32Nearest (f32Units a + f32Units b) (fadd32 a b) := by
  by_cases hS : f32Units a + f32Units b = 0
  · have hzero : fadd32 a b = 0#32 ∨ fadd32 a b = 0x80000000#32 := by
      rw [fadd32_zero_sum ha hb hS]
      split
      · exact .inr rfl
      · exact .inl rfl
    refine ⟨?_, hS ▸ f32Nearest_zero hzero⟩
    rcases hzero with h | h <;> rw [h, f32Finite] <;> decide
  · rw [fadd32_nonzero_sum ha hb hS]
    exact ⟨f32Round_finite _ hlt, f32Nearest_round hS hlt⟩

/-- R11's overflow, to the infinity of the sum's sign. -/
theorem fadd32_overflow {a b : F32} (ha : f32Finite a) (hb : f32Finite b)
    (h : (2 ^ 25 - 1) * 2 ^ 252 ≤ (f32Units a + f32Units b).natAbs) :
    fadd32 a b = if f32Units a + f32Units b < 0 then 0xFF800000#32 else 0x7F800000#32 := by
  have hS : f32Units a + f32Units b ≠ 0 := by omega
  rw [fadd32_nonzero_sum ha hb hS, f32Round_overflow _ h]
  simp

/-- Settles O44: the special operands are the branches of `fadd32`; for finite operands the exact sum lies between
two neighbouring magnitudes and rounding takes the nearer one. -/
theorem faddIsCorrectlyRounded : Obligations.FaddIsCorrectlyRounded := by
  refine ⟨fadd32_comm, fun a b => fadd32_of_isNaN, fun a b => fadd32_opposite_infs, fun a b => fadd32_inf_left,
    fun a b => fadd32_zero_sum, fun a b ha hb h => ?_, fun a b ha hb h => ?_, fun a b ha hb h => ?_⟩
  · rw [fadd32_overflow ha hb (by omega), if_neg (by omega)]
  · rw [fadd32_overflow ha hb (by omega), if_pos (by omega)]
  · rw [Int.abs_eq_natAbs] at h
    exact fadd32_finite_sum ha hb (by omega)

/-! `f32_fix8`. -/

/-- Settles O45: 24 bits scaled by 2^141 are representable, and rounding leaves a representable magnitude as it is. -/
theorem fixConversionIsExact : Obligations.FixConversionIsExact := by
  refine ⟨fun n hn => ?_, by decide⟩
  rw [Int.abs_eq_natAbs] at hn
  have hm : n.natAbs < 2 ^ 24 := by omega
  obtain ⟨r, hr⟩ := exists_bitsMag_scaled hm 141
  have hlt : n.natAbs * 2 ^ 141 < (2 ^ 25 - 1) * 2 ^ 252 := by omega
  refine ⟨f32Round_finite _ hlt, ?_⟩
  rw [f32Fix8, f32Units_round _ hlt, ← hr, f32RoundMag_bitsMag, hr]
  by_cases hneg : n < 0
  · simp only [hneg, decide_true, if_true]; omega
  · simp only [hneg, decide_false, Bool.false_eq_true, if_false]; omega

/-! `quant`, case by case. -/

theorem quant_of_isNaN {a : F32} (h : f32IsNaN a = true) (M : Nat) : quant a M = 0 := if_pos h

theorem quant_of_isInf {a : F32} (h : f32IsInf a = true) (M : Nat) : quant a M = if f32Neg a then 0 else M := by
  simp [quant, not_isNaN_of_isInf h, h]

theorem quant_of_neg {a : F32} (h : f32Neg a = true) (M : Nat) : quant a M = 0 := by simp [quant, h]

theorem quant_of_finite {a : F32} (hfin : f32Finite a) (hpos : ¬ f32Neg a = true) (M : Nat) :
    quant a M = if M * 2 ^ 149 ≤ f32Mag a then M else (f32Mag a + 2 ^ 148) / 2 ^ 149 := by
  simp [quant, hpos, not_isNaN_of_finite hfin, not_isInf_of_finite hfin]

theorem not_neg_of_units_pos {a : F32} (h : 0 < f32Units a) : ¬ f32Neg a = true := by
  intro hneg
  rw [f32Units_of_neg hneg] at h
  omega

theorem quant_of_units_nonpos {a : F32} (hfin : f32Finite a) (h : f32Units a ≤ 0) (M : Nat) : quant a M = 0 := by
  by_cases hneg : f32Neg a = true
  · exact quant_of_neg hneg M
  · rw [f32Units_of_not_neg hneg] at h
    rw [quant_of_finite hfin hneg]
    split <;> omega

theorem quant_le (a : F32) (M : Nat) : quant a M ≤ M := by
  unfold quant
  split_ifs <;> omega

/-- Settles O46: each clause is a branch of `quant`; in the last one `(mag + 2^148) / 2^149` is the floor of
`val + 1/2`. -/
theorem quantClampsAndRoundsHalfUp : Obligations.QuantClampsAndRoundsHalfUp := by
  refine ⟨fun a M h => quant_of_isNaN h M, fun a M h => quant_of_isInf h M,
    fun a M hfin h => quant_of_units_nonpos hfin h M, fun a M hfin hpos h => ?_, fun a M hfin hpos h => ?_, quant_le⟩
  · have hneg := not_neg_of_units_pos hpos
    rw [f32Units_of_not_neg hneg] at h
    rw [quant_of_finite hfin hneg, if_pos (by omega)]
  · have hneg := not_neg_of_units_pos hpos
    rw [f32Units_of_not_neg hneg] at h ⊢
    rw [quant_of_finite hfin hneg, if_neg (by omega)]
    omega

end Sys2Proof.Machine
end

section
/-! What an engine's turn and a step can do (00_scope.md R16, 60_exceptions.md R231), said once, and what follows for
BUSY and for the invariant. -/

namespace Sys2Proof.Machine

/-! What a command does to the data. -/

/-- `t` differs from `s` in the data alone: memory, working registers, waiting tallies, draw counter. The memory
keeps its canonical form. -/
structure DataChange (s t : State) : Prop where
  params : t.params = s.params
  cfg : t.cfg = s.cfg
  run : t.run = s.run
  wf : s.mem.wf = true → t.mem.wf = true

theorem DataChange.refl (s : State) : DataChange s s := ⟨rfl, rfl, rfl, id⟩

theorem DataChange.trans {s t u : State} (h : DataChange s t) (k : DataChange t u) : DataChange s u :=
  ⟨k.params.trans h.params, k.cfg.trans h.cfg, k.run.trans h.run, fun w => k.wf (h.wf w)⟩

theorem DataChange.foldl {α : Type} {f : State → α → State} (hf : ∀ s a, DataChange s (f s a)) (l : List α)
    (s : State) : DataChange s (l.foldl f s) := by
  induction l generalizing s with
  | nil => exact .refl s
  | cons a l ih => exact (hf s a).trans (ih _)

theorem runTask_dataChange (l : List WorkUnit) (s : State) : DataChange s (runTask l s) := by
  obtain ⟨t, ht, heq⟩ := runTask_spec l s
  rw [heq]
  exact ⟨ht.params, ht.cfg, ht.run, ht.wf⟩

theorem mergeTallies_dataChange (s : State) : DataChange s s.mergeTallies := ⟨rfl, rfl, rfl, mergeTallies_wf s⟩

theorem withFinished_dataChange (s : State) (ts : List Tally) : DataChange s (s.withFinished ts) :=
  ⟨rfl, rfl, rfl, id⟩

theorem nextDraw_dataChange (s : State) : DataChange s s.nextDraw := ⟨rfl, rfl, rfl, id⟩

/-- A fold of operations on the memory that keep the canonical form keeps it. -/
theorem Memory.foldl_wf {α : Type} {f : Memory → α → Memory} (hf : ∀ m a, m.wf = true → (f m a).wf = true)
    (l : List α) (m : Memory) (h : m.wf = true) : (l.foldl f m).wf = true := by
  induction l generalizing m with
  | nil => exact h
  | cons a l ih => exact ih _ (hf m a h)

theorem loseSharedInks_dataChange (s : State) : DataChange s s.loseSharedInks := by
  unfold State.loseSharedInks
  split
  · refine ⟨rfl, rfl, rfl, Memory.foldl_wf (fun m k hm => ?_) _ _⟩
    split
    · exact losePrint_wf _ _ _ _ _ hm
    · exact hm
  · exact .refl s

theorem rowEffect_dataChange (ch y : Nat) (s : State) : DataChange s (rowEffect ch y s) :=
  (((withFinished_dataChange s []).trans (runTask_dataChange _ _)).trans (mergeTallies_dataChange _)).trans
    (nextDraw_dataChange _)

theorem bandEffect_dataChange (s : State) : DataChange s (bandEffect s) :=
  ((((withFinished_dataChange s []).trans (.foldl (fun s l => runTask_dataChange l s) _ _)).trans
    (loseSharedInks_dataChange _)).trans (mergeTallies_dataChange _)).trans (nextDraw_dataChange _)

theorem discardRun_dataChange (s : State) : DataChange s s.discardRun :=
  ⟨rfl, rfl, rfl, Memory.loseSpace_wf _ _ _⟩

theorem leaveError_dataChange (s : State) : DataChange s s.leaveError := ⟨rfl, rfl, rfl, id⟩

@[simp] theorem State.withOp_restingOp_readyFlag (s : State) (ready : Bool) :
    (s.withOp (restingOp ready)).readyFlag = ready := by
  cases ready <;> rfl

@[simp] theorem State.leaveError_readyFlag (s : State) : s.leaveError.readyFlag = s.readyFlag :=
  s.withOp_restingOp_readyFlag s.readyFlag

/-! What the engine's turn can do. -/

/-- Every end of a command carried out in the BUSY state `s`: an error; completion with READY as it was; the
completion of INIT; the completion of END. -/
inductive CarriedOut (s : State) : State → Prop where
  | raised (e : ErrCode) : CarriedOut s (s.raise e)
  | kept (u : State) (h : DataChange s u) : CarriedOut s (u.complete s.readyFlag)
  | started (h : initError s.params s.acceptedCfg = none) : CarriedOut s (s.startRun.complete true)
  | ended : CarriedOut s (s.discardRun.complete false)

/-- A meaning's answer in BUSY is one of those ends. -/
theorem exec_carriedOut {i : Instr} {s t : State} (hbusy : s.busyFlag = true) (h : exec i s = .next t) :
    CarriedOut s t := by
  obtain ⟨r, w, c, hop⟩ : ∃ r w c, s.op = .busy r w c := by
    unfold State.busyFlag at hbusy
    split at hbusy
    · exact ⟨_, _, _, ‹_›⟩
    · cases hbusy
  cases i with
  | nop =>
    simp only [exec, execNop, issue_busy _ _ _ _ _ _ hop] at h
    cases h
    exact .kept s (.refl s)
  | init =>
    simp only [exec, execInit, issue_busy _ _ _ _ _ _ hop] at h
    split at h <;> cases h
    · exact .raised _
    · exact .started ‹_›
  | row ch y =>
    simp only [exec, execRow, issue_busy _ _ _ _ _ _ hop] at h
    split at h
    · cases h; exact .raised _
    · split at h <;> cases h
      exact .kept _ (rowEffect_dataChange ch y s)
  | band =>
    simp only [exec, execBand, issue_busy _ _ _ _ _ _ hop] at h
    split at h
    · cases h; exact .raised _
    · split at h <;> cases h
      exact .kept _ (bandEffect_dataChange s)
  | endRun =>
    simp only [exec, execEnd, issue_busy _ _ _ _ _ _ hop] at h
    split at h <;> cases h
    · exact .ended
    · exact .raised _
  | clrerr =>
    simp only [exec, execClrerr, issue_busy _ _ _ _ _ _ hop] at h
    cases h
    rw [State.leaveError_readyFlag]
    exact .kept _ (leaveError_dataChange s)

/-- The engine's turn carries the accepted command out; without one it does nothing (R248). -/
theorem engineTurn_cases {s t : State} (h : engineTurn s = .next t) :
    (s.busyFlag = false ∧ t = s) ∨ CarriedOut s t := by
  unfold engineTurn at h
  split at h
  · next r w c hop =>
    have hbusy : s.busyFlag = true := by simp [State.busyFlag, hop]
    split at h
    · exact .inr (exec_carriedOut hbusy h)
    · cases h; exact .inr (.raised _)
  · next hop =>
    cases h
    refine .inl ⟨?_, rfl⟩
    unfold State.busyFlag
    split
    · next r w c hbusy => exact absurd hbusy (hop r w c)
    · rfl

theorem CarriedOut.busyFlag {s t : State} (h : CarriedOut s t) : t.busyFlag = false := by
  cases h with
  | raised e => exact s.raise_busyFlag e
  | kept u _ => exact u.complete_busyFlag _
  | started _ => exact s.startRun.complete_busyFlag true
  | ended => exact s.discardRun.complete_busyFlag false

/-- Settles O13: an idle engine is left as it is, and every end of a command clears BUSY. -/
theorem engineTurnEndsBusy : Obligations.EngineTurnEndsBusy := by
  intro s t h
  rcases engineTurn_cases h with ⟨hidle, rfl⟩ | hdone
  · exact hidle
  · exact hdone.busyFlag

/-! What keeps the invariant. -/

/-- `t` has the invariant and the implementation parameters of `s`. -/
def KeepsInv (s t : State) : Prop := t.Inv ∧ t.params = s.params

/-- While no command is carried out, the configuration a command would read is the live one. -/
theorem State.acceptedCfg_of_not_busy {s : State} (h : s.busyFlag = false) : s.acceptedCfg = s.cfg := by
  unfold State.acceptedCfg
  split
  · next hop => simp [State.busyFlag, hop] at h
  · rfl

/-- The invariant outlives every change of the other registers, given that memory and configuration stay in form. -/
theorem State.Inv.keep {s t : State} (h : s.Inv) (hparams : t.params = s.params) (hop : t.op = s.op)
    (hrun : t.run = s.run) (htask : t.task = s.task) (hfin : t.finished = s.finished) (hmem : t.mem.wf = true)
    (hcfg : t.cfg.reservedClear) : KeepsInv s t := by
  refine ⟨⟨hparams ▸ h.paramsOk, hmem, hcfg, ?_, htask.trans h.noTask, hfin.trans h.noJoin, ?_⟩, hparams⟩
  · have hacc := h.reservedAccepted
    unfold State.acceptedCfg at hacc ⊢
    rw [hop]
    split at hacc
    · exact hacc
    · exact hcfg
  · have hready : t.readyFlag = s.readyFlag := by unfold State.readyFlag; rw [hop]
    rw [hready, hrun, hparams]
    exact h.runLatched

theorem keepsInv_violate {s : State} (h : s.Inv) : KeepsInv s s.violate :=
  h.keep rfl rfl rfl rfl rfl h.memWf h.reserved

/-- Raising drops READY, so nothing is claimed of the run. -/
theorem keepsInv_raise {s : State} (h : s.Inv) (e : ErrCode) : KeepsInv s (s.raise e) :=
  ⟨⟨h.paramsOk, h.memWf, h.reserved, h.reserved, h.noTask, h.noJoin, fun hr => by simp at hr⟩, rfl⟩

/-- Completion ends every task; the run needs to be latched only where READY is set. -/
theorem keepsInv_complete {s u : State} (h : s.Inv) (hparams : u.params = s.params) (hcfg : u.cfg = s.cfg)
    (hmem : u.mem.wf = true) (ready : Bool) (hrun : ready = true → u.run.latched s.params) :
    KeepsInv s (u.complete ready) := by
  have hres : u.cfg.reservedClear := hcfg ▸ h.reserved
  refine ⟨⟨hparams ▸ h.paramsOk, hmem, hres, ?_, rfl, rfl, ?_⟩, hparams⟩
  · rwa [State.acceptedCfg_of_not_busy (u.complete_busyFlag ready)]
  · rw [State.complete_readyFlag, State.complete_run, State.complete_params, hparams]
    exact hrun

/-- Acceptance keeps READY and copies the live configuration. -/
theorem keepsInv_accept {s : State} (h : s.Inv) (w : Word) : KeepsInv s (s.accept w) :=
  ⟨⟨h.paramsOk, h.memWf, h.reserved, h.reserved, h.noTask, h.noJoin, h.runLatched⟩, rfl⟩

theorem CarriedOut.keepsInv {s t : State} (hc : CarriedOut s t) (h : s.Inv) : KeepsInv s t := by
  cases hc with
  | raised e => exact keepsInv_raise h e
  | kept u hu => exact keepsInv_complete h hu.params hu.cfg (hu.wf h.memWf) _ (hu.run ▸ h.runLatched)
  | started hinit =>
    exact keepsInv_complete (u := s.startRun) h rfl rfl
      (Memory.clearSpace_wf _ _ (Memory.clearSpace_wf _ _ h.memWf)) true
      fun _ => ⟨s.acceptedCfg, hinit, rfl⟩
  | ended =>
    have hu := discardRun_dataChange s
    exact keepsInv_complete h hu.params hu.cfg (hu.wf h.memWf) false (fun hr => Bool.noConfusion hr)

theorem keepsInv_engineTurn {s t : State} (h : s.Inv) (ht : engineTurn s = .next t) : KeepsInv s t := by
  rcases engineTurn_cases ht with ⟨-, rfl⟩ | hdone
  · exact ⟨h, rfl⟩
  · exact hdone.keepsInv h

/-! Resets. -/

theorem reset_reservedClear : ConfigRegs.reset.reservedClear := by
  unfold ConfigRegs.reservedClear
  decide

/-- After a reset of the registers the invariant asks nothing but the parameters' ranges and the memory's form. -/
theorem keepsInv_of_reset {s t : State} (h : s.Inv) (hparams : t.params = s.params) (hcfg : t.cfg = .reset)
    (hop : t.op = .idle) (htask : t.task = .idle) (hfin : t.finished = []) (hmem : t.mem.wf = true) :
    KeepsInv s t := by
  have hres : t.cfg.reservedClear := hcfg ▸ reset_reservedClear
  refine ⟨⟨hparams ▸ h.paramsOk, hmem, hres, ?_, htask, hfin, ?_⟩, hparams⟩
  · rwa [State.acceptedCfg_of_not_busy (by simp [State.busyFlag, hop])]
  · simp [State.readyFlag, hop]

theorem keepsInv_softReset {s : State} (h : s.Inv) : KeepsInv s s.softReset := by
  unfold State.softReset
  split
  · exact keepsInv_of_reset h rfl rfl rfl rfl rfl (s.loseBuffers_wf h.memWf)
  · exact keepsInv_of_reset h rfl rfl rfl rfl rfl h.memWf

theorem keepsInv_hardReset {s : State} (h : s.Inv) : KeepsInv s s.hardReset :=
  keepsInv_of_reset h rfl rfl rfl rfl rfl (Memory.unspecified_wf _)

/-! Host accesses. -/

theorem keepsInv_busRead {s : State} (h : s.Inv) (addr : BitVec 6) : KeepsInv s (s.busRead addr) := by
  rw [s.busRead_eq addr]
  exact h.keep rfl rfl rfl rfl rfl h.memWf h.reserved

/-- A write to CMD is accepted or ignored as a violation (R231). -/
theorem writeCmd_cases (s : State) (w : Word) : s.writeCmd w = s.accept w ∨ s.writeCmd w = s.violate := by
  unfold State.writeCmd
  cases s.op with
  | idle => exact .inl rfl
  | ready => exact .inl rfl
  | busy r w' c => exact .inr rfl
  | error e => dsimp only; split <;> simp

theorem keepsInv_writeCmd {s : State} (h : s.Inv) (w : Word) : KeepsInv s (s.writeCmd w) := by
  rcases writeCmd_cases s w with hw | hw <;> rw [hw]
  · exact keepsInv_accept h w
  · exact keepsInv_violate h

theorem keepsInv_writeMemData {s : State} (h : s.Inv) (v : Word) : KeepsInv s (s.writeMemData v) := by
  rw [s.writeMemData_eq v]
  exact h.keep rfl rfl rfl rfl rfl (s.writeMemData_wf v h.memWf) h.reserved

/-- A write to CONFIG leaves its reserved bits 0 (R21, R27). -/
theorem reservedClear_of_masked (c : ConfigRegs) (v : Word) :
    ({ c with config := v &&& configMask } : ConfigRegs).reservedClear := by
  change v &&& configMask &&& ~~~configMask = 0#32
  rw [BitVec.and_assoc, BitVec.and_not_self]
  exact BitVec.and_zero

/-- Replacing the live configuration registers does not touch those of a command being carried out. -/
theorem keepsInv_withCfg {s : State} (h : s.Inv) {c : ConfigRegs} (hc : c.reservedClear) : KeepsInv s (s.withCfg c) :=
  h.keep rfl rfl rfl rfl rfl h.memWf hc

/-- A write to a register: CMD, CTRL and MEMDATA have an effect of their own; CONFIG's reserved bits are masked; the
other configuration registers leave CONFIG as it is; the rest leaves everything the invariant speaks of. -/
theorem keepsInv_writeReg {s : State} (h : s.Inv) (r : Reg) (v : Word) : KeepsInv s (s.writeReg r v) := by
  cases r with
  | cmd => exact keepsInv_writeCmd h v
  | memData => exact keepsInv_writeMemData h v
  | ctrl =>
    unfold State.writeReg
    dsimp only
    split
    · exact keepsInv_softReset h
    · exact ⟨h, rfl⟩
  | config => exact keepsInv_withCfg h (reservedClear_of_masked s.cfg v)
  | hyst | dotLevels | inDim | outDim | inkOrd0 | inkOrd1 | seed | lutCtl | dotSize | errSize =>
    exact keepsInv_withCfg h h.reserved
  | id | status | xStep | yStep | noise | runInfo => exact ⟨h, rfl⟩
  | irqEn | irqPend | memSel | memAddr => exact h.keep rfl rfl rfl rfl rfl h.memWf h.reserved

theorem keepsInv_busWrite {s : State} (h : s.Inv) (addr : BitVec 6) (v : Word) : KeepsInv s (s.busWrite addr v) := by
  unfold State.busWrite
  split
  · exact keepsInv_writeReg h _ v
  · exact ⟨h, rfl⟩

/-! A step. -/

theorem State.Inv.withEvents {s : State} (h : s.Inv) (es : List Event) : (s.withEvents es).Inv :=
  (h.keep (t := s.withEvents es) rfl rfl rfl rfl rfl h.memWf h.reserved).1

/-- Taking an event off the list changes nothing the invariant speaks of. -/
theorem keepsInv_of_withEvents {s t : State} {es : List Event} (h : KeepsInv (s.withEvents es) t) : KeepsInv s t := h

/-- Settles O57, event by event. -/
theorem everyStepKeepsTheInvariant : Obligations.EveryStepKeepsTheInvariant := by
  intro s t h hstep
  unfold step at hstep
  split at hstep
  · exact keepsInv_engineTurn h hstep
  · exact keepsInv_of_withEvents (keepsInv_engineTurn (h.withEvents _) hstep)
  · cases hstep; exact keepsInv_of_withEvents (keepsInv_busWrite (h.withEvents _) _ _)
  · cases hstep; exact keepsInv_of_withEvents (keepsInv_busRead (h.withEvents _) _)
  · cases hstep; exact keepsInv_of_withEvents (keepsInv_hardReset (h.withEvents _))

end Sys2Proof.Machine
end

section
/-! The register window (10_state.md R21 to R40): STATUS, `irq`, what each register reads as and reads back, the
reserved offsets, and what all of it is after reset. -/

namespace Sys2Proof.Machine

/-! STATUS (R26). Reading a field off a concatenation needs the widths as sums, so `simp` does not evaluate them. -/

/-- STATUS says the operating state and nothing else (R41). -/
theorem status_of_op {s : State} {op : OpState} (h : s.op = op) : s.status = (State.reset.withOp op).status := by
  simp [State.status, State.busyFlag, State.readyFlag, State.errFlag, State.errCode, h]

/-- The fields of STATUS, side by side. -/
def statusFields (code : BitVec 8) (err ready busy : Bool) : BitVec (16 + 8 + 5 + 1 + 1 + 1) :=
  0#16 ++ code ++ 0#5 ++ BitVec.ofBool err ++ BitVec.ofBool ready ++ BitVec.ofBool busy

theorem status_eq_statusFields (s : State) : s.status = statusFields s.errCode s.errFlag s.readyFlag s.busyFlag := rfl

theorem status_of_busy {s : State} {ready : Bool} {w : Word} {c : ConfigRegs} (h : s.op = .busy ready w c) :
    s.status = statusFields 0#8 false ready true := by
  rw [status_eq_statusFields]
  simp [State.busyFlag, State.readyFlag, State.errFlag, State.errCode, h]

section
variable (code : BitVec 8) (err ready busy : Bool)

theorem statusFields_flags :
    (statusFields code err ready busy).getLsbD 0 = busy ∧ (statusFields code err ready busy).getLsbD 1 = ready ∧
    (statusFields code err ready busy).getLsbD 2 = err := by
  simp only [statusFields, BitVec.getLsbD_append]
  simp

theorem statusFields_code : (statusFields code err ready busy).extractLsb' 8 8 = code := by
  simp [-Nat.reduceAdd, statusFields, BitVec.extractLsb'_append_eq_of_le, BitVec.extractLsb'_append_eq_of_add_le]

theorem statusFields_reserved :
    (statusFields code err ready busy).extractLsb' 3 5 = 0#5 ∧
    (statusFields code err ready busy).extractLsb' 16 16 = 0#16 := by
  simp [-Nat.reduceAdd, statusFields, BitVec.extractLsb'_append_eq_of_le, BitVec.extractLsb'_append_eq_of_add_le]

end

theorem State.op_of_errFlag {s : State} (h : s.errFlag = true) : ∃ e, s.op = .error e := by
  unfold State.errFlag at h
  split at h
  · exact ⟨_, ‹_›⟩
  · cases h

theorem State.errCode_of_no_error {s : State} (h : s.errFlag = false) : s.errCode = 0#8 := by
  unfold State.errCode
  split
  · next hop => simp [State.errFlag, hop] at h
  · rfl

/-- The codes of R233. -/
theorem ErrCode.code_mem (e : ErrCode) : e.code ∈ [0x11#8, 0x12#8, 0x13#8, 0x21#8, 0x31#8, 0x41#8, 0x42#8] := by
  cases e <;> decide

/-- Settles O10: STATUS is computed from the operating state, and its fields are read off their concatenation. -/
theorem statusShowsTheOperatingState : Obligations.StatusShowsTheOperatingState := by
  refine ⟨fun s => ⟨fun h => status_of_op h, fun h => status_of_op h, fun w c h => (status_of_busy h).trans (by decide),
    fun w c h => (status_of_busy h).trans (by decide), fun h => status_of_op h, fun h => status_of_op h,
    fun h => status_of_op h, fun h => status_of_op h, fun h => status_of_op h, fun h => status_of_op h,
    fun h => status_of_op h⟩, fun s => ?_⟩
  rw [status_eq_statusFields]
  obtain ⟨hbusy, hready, herr⟩ := statusFields_flags s.errCode s.errFlag s.readyFlag s.busyFlag
  obtain ⟨hlow, hhigh⟩ := statusFields_reserved s.errCode s.errFlag s.readyFlag s.busyFlag
  refine ⟨hbusy, hready, herr, hlow, statusFields_code _ _ _ _, hhigh, fun h => ?_, State.errCode_of_no_error, fun h => ?_⟩
  · obtain ⟨e, hop⟩ := s.op_of_errFlag h
    simp [State.busyFlag, State.readyFlag, hop]
  · obtain ⟨e, hop⟩ := s.op_of_errFlag h
    simpa only [State.errCode, hop] using e.code_mem

/-! IRQPEND, IRQEN and `irq` (R39, R40). -/

/-- Settles O52: the three bits of each register stand at the bottom of its word. -/
theorem irqIsTheOrOfEnabledPendingBits : Obligations.IrqIsTheOrOfEnabledPendingBits := by
  intro s
  have hpad : ∀ b : BitVec 3, b.setWidth 32 = 0#32 ↔ b = 0#3 := fun b => by
    rw [← BitVec.toNat_inj, ← BitVec.toNat_inj, BitVec.toNat_setWidth_of_le (by decide)]
    rfl
  calc s.irq = true
      ↔ s.irqPend &&& s.irqEn ≠ 0#3 := by simp [State.irq]
    _ ↔ (s.irqPend &&& s.irqEn).setWidth 32 ≠ 0#32 := (not_congr (hpad _)).symm
    _ ↔ s.regValue .irqPend &&& s.regValue .irqEn ≠ 0#32 := by rw [BitVec.setWidth_and]; rfl

/-! A bus access (R72, R74). -/

theorem step_read {s : State} {addr : BitVec 6} {rest : List Event} (h : s.events = .read addr :: rest) :
    step s = .next ((s.withEvents rest).busRead addr) := by
  simp only [step, h]

theorem step_write {s : State} {addr : BitVec 6} {v : Word} {rest : List Event}
    (h : s.events = .write addr v :: rest) : step s = .next ((s.withEvents rest).busWrite addr v) := by
  simp only [step, h]

/-- The window has 24 registers (R22, R23). -/
theorem regAt_reserved {addr : BitVec 6} (h : 0x18 ≤ addr.toNat) : regAt addr = none :=
  List.getElem?_eq_none h

/-- Settles O51. -/
theorem reservedOffsetsReadZero : Obligations.ReservedOffsetsReadZero := by
  intro s addr rest haddr
  refine ⟨fun h => ?_, fun v h => ?_⟩
  · rw [step_read h, State.busRead, regAt_reserved haddr]
    rfl
  · rw [step_write h, State.busWrite, regAt_reserved haddr]
    rfl

theorem busRead_regAddr {s : State} {r : Reg} (h : r ≠ .memData) :
    s.busRead (regAddr r) = s.withRdata (s.regValue r) := by
  rw [State.busRead, regAt_regAddr]
  cases r
  case memData => exact absurd rfl h
  all_goals rfl

theorem regValue_withEvents (s : State) (es : List Event) (r : Reg) : (s.withEvents es).regValue r = s.regValue r := by
  cases r <;> rfl

/-- A write of a register that holds its value, or of a read-only one, does not concern the events to come. -/
theorem writeReg_withEvents {r : Reg} (hcmd : r ≠ .cmd) (hctrl : r ≠ .ctrl) (hmem : r ≠ .memData) (s : State)
    (es : List Event) (v : Word) : (s.withEvents es).writeReg r v = (s.writeReg r v).withEvents es := by
  cases r
  case cmd => exact absurd rfl hcmd
  case ctrl => exact absurd rfl hctrl
  case memData => exact absurd rfl hmem
  all_goals rfl

/-! Implemented bits (R21): a register of `k` bits reads back the low `k` of what was written. -/

theorem setWidth_setWidth_eq_and (k : Nat) (v : Word) :
    (v.setWidth k).setWidth 32 = v &&& BitVec.ofNat 32 (2 ^ k - 1) := by
  refine BitVec.eq_of_getLsbD_eq fun i hi => ?_
  rw [BitVec.getLsbD_setWidth, BitVec.getLsbD_setWidth, BitVec.getLsbD_and, BitVec.getLsbD_ofNat,
    Nat.testBit_two_pow_sub_one]
  simp [hi, Bool.and_comm]

/-- Writing 1 clears a bit of IRQPEND (R39). -/
theorem irqPend_cleared (p : BitVec 3) (v : Word) :
    (p &&& ~~~(v.setWidth 3)).setWidth 32 = p.setWidth 32 &&& ~~~v := by
  refine BitVec.eq_of_getLsbD_eq fun i hi => ?_
  by_cases h3 : i < 3
  · simp [hi, h3]
  · simp [BitVec.getLsbD_of_ge p i (by omega)]

/-- CONFIG is masked when it is written and when it is read. -/
theorem configMask_and_self (v : Word) : v &&& configMask &&& configMask = v &&& configMask := by
  rw [BitVec.and_assoc, BitVec.and_self]

theorem writeReg_readOnly (s : State) (v : Word) :
    ∀ r ∈ [Reg.id, .status, .xStep, .yStep, .noise, .runInfo], s.writeReg r v = s := by
  simp [State.writeReg]

/-! NOISE and RUNINFO (R35, R36), concatenations of fields. -/

/-- The fields of RUNINFO, side by side. -/
def infoFields (r : Run) : BitVec (6 + 10 + 5 + 1 + 1 + 1 + 5 + 3) :=
  0#6 ++ r.h ++ 0#5 ++ BitVec.ofBool (decide (r.h ≠ 0#10)) ++ BitVec.ofBool r.s16 ++ BitVec.ofBool r.w16 ++ r.ks ++ r.kh

theorem infoWord_eq_infoFields (r : Run) : r.infoWord = infoFields r := rfl

theorem infoFields_numbers (r : Run) :
    (infoFields r).extractLsb' 0 3 = r.kh ∧ (infoFields r).extractLsb' 3 5 = r.ks ∧
    (infoFields r).extractLsb' 16 10 = r.h := by
  simp [-Nat.reduceAdd, infoFields, BitVec.extractLsb'_append_eq_of_le, BitVec.extractLsb'_append_eq_of_add_le]

theorem infoFields_flags (r : Run) :
    (infoFields r).getLsbD 8 = r.w16 ∧ (infoFields r).getLsbD 9 = r.s16 ∧
    ((infoFields r).getLsbD 10 = true ↔ r.h ≠ 0#10) := by
  simp only [infoFields, BitVec.getLsbD_append]
  simp

theorem infoFields_reserved (r : Run) :
    (infoFields r).extractLsb' 11 5 = 0#5 ∧ (infoFields r).extractLsb' 26 6 = 0#6 := by
  simp [-Nat.reduceAdd, infoFields, BitVec.extractLsb'_append_eq_of_le, BitVec.extractLsb'_append_eq_of_add_le]

theorem noiseWord_fields (r : Run) :
    BitVec.extractLsb' 0 16 (r.nrs ++ r.nrf) = r.nrf ∧ BitVec.extractLsb' 16 16 (r.nrs ++ r.nrf) = r.nrs := by
  simp [-Nat.reduceAdd, BitVec.extractLsb'_append_eq_of_le, BitVec.extractLsb'_append_eq_of_add_le]

/-! The window. -/

theorem step_read_regAddr {s : State} {r : Reg} {rest : List Event} (hmem : r ≠ .memData)
    (h : s.events = .read (regAddr r) :: rest) :
    step s = .next { s with events := rest, rdata := s.regValue r } := by
  rw [step_read h, busRead_regAddr hmem, regValue_withEvents]
  rfl

theorem step_write_regAddr {s : State} {r : Reg} {v : Word} {rest : List Event} (hcmd : r ≠ .cmd) (hctrl : r ≠ .ctrl)
    (hmem : r ≠ .memData) (h : s.events = .write (regAddr r) v :: rest) :
    step s = .next { s.writeReg r v with events := rest } := by
  rw [step_write h, State.busWrite, regAt_regAddr]
  exact congrArg _ (writeReg_withEvents hcmd hctrl hmem s rest v)

/-- Settles O50: the masks by `setWidth_setWidth_eq_and`, the accesses by the lemmas on a step, the fields of NOISE and
RUNINFO off their concatenation; the frames are the registers' definitions. -/
theorem registersReadBackTheirImplementedBits : Obligations.RegistersReadBackTheirImplementedBits := by
  refine ⟨fun s v => ?_, by decide, fun s rest r => step_read_regAddr, fun s => ?_,
    fun s rest r v => step_write_regAddr, fun s v => ?_⟩
  · exact ⟨configMask_and_self v, setWidth_setWidth_eq_and 16 v, setWidth_setWidth_eq_and 9 v,
      setWidth_setWidth_eq_and 24 v, rfl, rfl, rfl, rfl, setWidth_setWidth_eq_and 2 v, setWidth_setWidth_eq_and 17 v,
      setWidth_setWidth_eq_and 21 v, setWidth_setWidth_eq_and 3 v, irqPend_cleared s.irqPend v,
      setWidth_setWidth_eq_and 3 v, rfl, writeReg_readOnly s v, rfl, rfl⟩
  · obtain ⟨hnrf, hnrs⟩ := noiseWord_fields s.run
    obtain ⟨hkh, hks, hh⟩ := infoFields_numbers s.run
    obtain ⟨hw16, hs16, hon⟩ := infoFields_flags s.run
    obtain ⟨hlow, hhigh⟩ := infoFields_reserved s.run
    rw [show s.regValue .runInfo = infoFields s.run from infoWord_eq_infoFields s.run]
    exact ⟨rfl, rfl, rfl, rfl, rfl, rfl, rfl, rfl, rfl, rfl, rfl, rfl, rfl, rfl, rfl, rfl, rfl, rfl, rfl, hnrf, hnrs, hkh,
      hks, hw16, hs16, hon, hlow, hh, hhigh, rfl, rfl⟩
  · exact ⟨rfl, rfl, rfl, rfl, rfl, rfl, rfl, rfl, rfl, rfl, rfl, rfl, rfl, rfl, rfl⟩

/-! After reset (R60). -/

/-- No register shows the parameters or the events to come. -/
theorem regValue_start (p : Config.Params) (es : List Event) :
    (State.start p es).regValue = State.reset.regValue :=
  funext fun r => by cases r <;> rfl

theorem irq_start (p : Config.Params) (es : List Event) : (State.start p es).irq = State.reset.irq := rfl

/-- Settles O53: the reset state, read register by register. -/
theorem resetLeavesTheRegisterMapValues : Obligations.ResetLeavesTheRegisterMapValues := by
  intro p es
  rw [regValue_start]
  exact ⟨by decide, rfl, rfl, (irq_start p es).trans (by decide)⟩

theorem inv_start {p : Config.Params} (hp : p.ok = true) (es : List Event) : (State.start p es).Inv where
  paramsOk := hp
  memWf := Memory.unspecified_wf 0
  reserved := reset_reservedClear
  reservedAccepted := reset_reservedClear
  noTask := rfl
  noJoin := rfl
  runLatched h := Bool.noConfusion h

/-- Settles O56. -/
theorem invHoldsAtReset : Obligations.InvHoldsAtReset :=
  ⟨inv_start (p := Config.resetParams) (by decide) [], fun _ es hp => inv_start hp es⟩

end Sys2Proof.Machine
end

section
/-! What a step can do to the latched run and to READY (10_state.md R26, R45, R60), said once. -/

namespace Sys2Proof.Machine

/-! INIT has one word (30_encoding.md R102). -/

theorem decodeN_eq_ok {w : Word} {i j : Instr} (h : decodeN w i = .ok j) : w.extractLsb' 0 24 = 0#24 ∧ i = j := by
  unfold decodeN at h
  split at h <;> cases h
  exact ⟨‹_›, rfl⟩

theorem decodeW_ne_init (w : Word) : decodeW w ≠ .ok .init := by
  unfold decodeW
  split <;> simp

/-- A word is its opcode field and the 24 bits below (R101). -/
theorem word_eq_of_fields {w : Word} {op : BitVec 8} (hop : opField w = op.toNat) (hlow : w.extractLsb' 0 24 = 0#24) :
    w = op ++ 0#24 := by
  have hhigh : w.extractLsb' 24 8 = op := BitVec.eq_of_toNat_eq hop
  calc w = w.extractLsb' 24 8 ++ w.extractLsb' 0 24 := by
        rw [BitVec.extractLsb'_append_extractLsb'_eq_extractLsb' (by rfl)]
        exact BitVec.extractLsb'_eq_self.symm
    _ = op ++ 0#24 := by rw [hhigh, hlow]

theorem decode_eq_init {w : Word} (h : decode w = .ok .init) : w = 0x01000000#32 := by
  unfold decode at h
  split at h
  · simpa using (decodeN_eq_ok h).2
  split at h
  · next hop => exact word_eq_of_fields (op := 1#8) hop (decodeN_eq_ok h).1
  split at h
  · exact absurd h (decodeW_ne_init w)
  split at h
  · simpa using (decodeN_eq_ok h).2
  split at h
  · simpa using (decodeN_eq_ok h).2
  split at h
  · simpa using (decodeN_eq_ok h).2
  · cases h

/-! The engine's turn. -/

/-- The latched run is kept, and READY is not set anew. -/
structure RunKept (s t : State) : Prop where
  run : t.run = s.run
  ready : t.readyFlag = true → s.readyFlag = true

/-- A successful INIT is carried out, and its run latched (40_catalog_and_run_control.md R140). -/
def StartsRun (s t : State) : Prop :=
  ∃ r c, s.op = .busy r 0x01000000#32 c ∧ initError s.params c = none ∧ t.run = latchRun c

theorem runKept_raise (s : State) (e : ErrCode) : RunKept s (s.raise e) := ⟨rfl, fun h => by simp at h⟩

theorem DataChange.runKept_complete {s u : State} (h : DataChange s u) : RunKept s (u.complete s.readyFlag) :=
  ⟨h.run, fun hr => by simpa using hr⟩

/-- Every command but INIT keeps the run, however it ends. -/
theorem exec_runKept {i : Instr} {s t : State} {r : Bool} {w : Word} {c : ConfigRegs} (hop : s.op = .busy r w c)
    (hi : i ≠ .init) (h : exec i s = .next t) : RunKept s t := by
  cases i with
  | init => exact absurd rfl hi
  | nop =>
    simp only [exec, execNop, issue_busy _ _ _ _ _ _ hop] at h
    cases h
    exact (DataChange.refl s).runKept_complete
  | row ch y =>
    simp only [exec, execRow, issue_busy _ _ _ _ _ _ hop] at h
    split at h
    · cases h; exact runKept_raise s _
    · split at h <;> cases h
      exact (rowEffect_dataChange ch y s).runKept_complete
  | band =>
    simp only [exec, execBand, issue_busy _ _ _ _ _ _ hop] at h
    split at h
    · cases h; exact runKept_raise s _
    · split at h <;> cases h
      exact (bandEffect_dataChange s).runKept_complete
  | endRun =>
    simp only [exec, execEnd, issue_busy _ _ _ _ _ _ hop] at h
    split at h <;> cases h
    · exact ⟨(discardRun_dataChange s).run, fun hr => by simp at hr⟩
    · exact runKept_raise s _
  | clrerr =>
    simp only [exec, execClrerr, issue_busy _ _ _ _ _ _ hop] at h
    cases h
    rw [State.leaveError_readyFlag]
    exact (leaveError_dataChange s).runKept_complete

theorem execInit_cases {s t : State} {r : Bool} {w : Word} {c : ConfigRegs} (hop : s.op = .busy r w c)
    (h : exec .init s = .next t) : RunKept s t ∨ initError s.params c = none ∧ t.run = latchRun c := by
  have haccepted : s.acceptedCfg = c := by simp [State.acceptedCfg, hop]
  simp only [exec, execInit, issue_busy _ _ _ _ _ _ hop, haccepted] at h
  split at h <;> cases h
  · exact .inl (runKept_raise s _)
  · exact .inr ⟨‹_›, by rw [State.complete_run, State.startRun, State.withMem_run, State.withRun_run, haccepted]⟩

theorem engineTurn_run_cases {s t : State} (h : engineTurn s = .next t) : RunKept s t ∨ StartsRun s t := by
  unfold engineTurn at h
  split at h
  · next r w c hop =>
    split at h
    · next i hdecode =>
      by_cases hi : i = .init
      · subst hi
        refine (execInit_cases hop h).imp_right fun ⟨herr, hrun⟩ => ⟨r, c, ?_, herr, hrun⟩
        rw [hop, decode_eq_init hdecode]
      · exact .inl (exec_runKept hop hi h)
    · cases h; exact .inl (runKept_raise s _)
  · cases h; exact .inl ⟨rfl, id⟩

/-! Host accesses. -/

theorem runKept_of_op {s t : State} (hrun : t.run = s.run) (hop : t.op = s.op) : RunKept s t :=
  ⟨hrun, fun h => by unfold State.readyFlag at h ⊢; rwa [hop] at h⟩

theorem busRead_runKept (s : State) (addr : BitVec 6) : RunKept s (s.busRead addr) := by
  rw [s.busRead_eq addr]
  exact runKept_of_op rfl rfl

theorem writeCmd_runKept (s : State) (w : Word) : RunKept s (s.writeCmd w) := by
  rcases writeCmd_cases s w with h | h <;> rw [h]
  · exact ⟨rfl, id⟩
  · exact runKept_of_op rfl rfl

/-- A register write keeps the run, but for CTRL's soft-reset bit (10_state.md R38, R60). -/
theorem writeReg_run_cases (s : State) (reg : Reg) (v : Word) :
    RunKept s (s.writeReg reg v) ∨ reg = .ctrl ∧ v.getLsbD 0 = true ∧ s.writeReg reg v = s.softReset := by
  cases reg with
  | cmd => exact .inl (writeCmd_runKept s v)
  | memData =>
    change RunKept s (s.writeMemData v) ∨ _
    rw [s.writeMemData_eq v]
    exact .inl (runKept_of_op rfl rfl)
  | ctrl =>
    unfold State.writeReg
    dsimp only
    split
    · exact .inr ⟨rfl, ‹_›, rfl⟩
    · exact .inl (runKept_of_op rfl rfl)
  | _ => exact .inl (runKept_of_op rfl rfl)

theorem regAt_eq_ctrl : ∀ addr : BitVec 6, regAt addr = some .ctrl → addr = regAddr .ctrl := by decide

theorem busWrite_run_cases (s : State) (addr : BitVec 6) (v : Word) :
    RunKept s (s.busWrite addr v) ∨
      addr = regAddr .ctrl ∧ v.getLsbD 0 = true ∧ s.busWrite addr v = s.softReset := by
  unfold State.busWrite
  split
  · next reg hreg =>
    refine (writeReg_run_cases s reg v).imp_right fun ⟨hctrl, hbit, hreset⟩ => ⟨?_, hbit, hreset⟩
    exact regAt_eq_ctrl addr (hctrl ▸ hreg)
  · exact .inl (runKept_of_op rfl rfl)

theorem softReset_run (s : State) : s.softReset.run = Run.zero := by
  unfold State.softReset
  split <;> rfl

theorem softReset_readyFlag (s : State) : s.softReset.readyFlag = false := by
  unfold State.softReset
  split <;> rfl

/-! A step. -/

/-- The next event is a hardware reset, or a write that sets CTRL's soft-reset bit. -/
def State.resetNext (s : State) : Prop :=
  s.events.head? = some .rstn ∨ ∃ v : Word, s.events.head? = some (.write (regAddr .ctrl) v) ∧ v.getLsbD 0 = true

/-- Everything a step can do to the run: keep it, zero it in a reset, latch it in a successful INIT. -/
theorem step_run_cases {s t : State} (h : step s = .next t) :
    RunKept s t ∨ (t.run = Run.zero ∧ t.readyFlag = false ∧ s.resetNext) ∨ StartsRun s t := by
  unfold step at h
  split at h
  · exact (engineTurn_run_cases h).imp_right .inr
  · next rest _ =>
    rcases engineTurn_run_cases h with ⟨hrun, hready⟩ | hstarts
    · exact .inl ⟨hrun, hready⟩
    · exact .inr (.inr hstarts)
  · next addr v rest hev =>
    cases h
    rcases busWrite_run_cases (s.withEvents rest) addr v with ⟨hrun, hready⟩ | ⟨rfl, hbit, hreset⟩
    · exact .inl ⟨hrun, hready⟩
    · rw [hreset]
      exact .inr (.inl ⟨softReset_run _, softReset_readyFlag _, .inr ⟨v, by rw [hev]; rfl, hbit⟩⟩)
  · next addr rest _ =>
    cases h
    obtain ⟨hrun, hready⟩ := busRead_runKept (s.withEvents rest) addr
    exact .inl ⟨hrun, hready⟩
  · next rest hev =>
    cases h
    exact .inr (.inl ⟨rfl, rfl, .inl (by rw [hev]; rfl)⟩)

/-- Settles O11: of the three things a step can do to the run, only a successful INIT sets READY anew. -/
theorem readyIsSetByInitAlone : Obligations.ReadyIsSetByInitAlone := by
  intro s t hs h ht
  rcases step_run_cases h with hkept | ⟨-, hreset, -⟩ | ⟨r, c, hop, herr, -⟩
  · simp [hkept.ready ht] at hs
  · simp [ht] at hreset
  · have hr : r = false := by simpa [State.readyFlag, hop] using hs
    exact ⟨c, hr ▸ hop, herr⟩

/-- Settles O12: the three things a step can do to the run. -/
theorem runChangesOnlyByInitOrReset : Obligations.RunChangesOnlyByInitOrReset := by
  intro s t h hne
  rcases step_run_cases h with hkept | ⟨hzero, -, hreset⟩ | hstarts
  · exact absurd hkept.run hne
  · exact .inl ⟨hzero, hreset⟩
  · exact .inr hstarts

end Sys2Proof.Machine
end

section
/-! What the row pipeline does not read: the live configuration registers (log 3), and, with the effective hysteresis 0
(41_row_halftone.md R182), SEED and the draw counter. A change of these commutes with every operation of ROW and BAND. -/

namespace Sys2Proof.Machine

/-! How a command is taken (60_exceptions.md R231). -/

theorem State.op_of_busyFlag {s : State} (h : s.busyFlag = true) : ∃ r w c, s.op = .busy r w c := by
  unfold State.busyFlag at h
  split at h
  · exact ⟨_, _, _, ‹_›⟩
  · cases h

/-- Every meaning begins with `issue`. -/
theorem exec_eq_issue (i : Instr) : ∃ f, ∀ s, exec i s = issue i s f := by
  cases i <;> exact ⟨_, fun _ => rfl⟩

/-- In IDLE and READY a command is accepted, and the rest is what a BUSY engine does (00_scope.md R16; log 20). -/
theorem exec_resting (i : Instr) {s : State} {r : Bool} (h : s.op = restingOp r) :
    exec i s = exec i (s.accept (encode i)) := by
  obtain ⟨f, hf⟩ := exec_eq_issue i
  rw [hf, hf, issue_resting i s f r h, issue_busy i (s.accept (encode i)) f _ _ _ rfl]

/-- In ERROR a command other than CLRERR is ignored as a violation (60_exceptions.md R231). -/
theorem exec_error {i : Instr} {s : State} {e : ErrCode} (h : s.op = .error e) (hi : i ≠ .clrerr) :
    exec i s = .next s.violate := by
  obtain ⟨f, hf⟩ := exec_eq_issue i
  rw [hf, issue_error i s f e h hi]

/-! What is not read. -/

/-- `s` with other live configuration registers, another latched SEED and another draw counter. -/
def State.withUnread (s : State) (c : ConfigRegs) (seed : Word) (n : Nat) : State :=
  { s with cfg := c, run := { s.run with seed := seed }, draws := n }

/-- The noise of step 3 is the same under `seed` and `n` as in `s`: the hysteresis is 0 (R171, R182), or nothing that
names a draw is changed. -/
def State.SameNoise (s : State) (seed : Word) (n : Nat) : Prop :=
  s.run.h = 0#10 ∨ seed = s.run.seed ∧ n = s.draws

theorem State.SameNoise.of_eq {s t : State} {seed : Word} {n : Nat} (h : s.SameNoise seed n) (hrun : t.run = s.run)
    (hdraws : t.draws = s.draws) : t.SameNoise seed n := by
  unfold State.SameNoise
  rw [hrun, hdraws]
  exact h

theorem State.SameNoise.change {s t : State} {seed : Word} {n : Nat} (h : s.SameNoise seed n)
    (hst : PipelineChange s t) : t.SameNoise seed n :=
  h.of_eq hst.run hst.draws

section
variable (c : ConfigRegs) (seed : Word) (n : Nat)

/-! What stays and what commutes. -/

@[simp] theorem State.withUnread_params (s : State) : (s.withUnread c seed n).params = s.params := rfl
@[simp] theorem State.withUnread_mem (s : State) : (s.withUnread c seed n).mem = s.mem := rfl
@[simp] theorem State.withUnread_task (s : State) : (s.withUnread c seed n).task = s.task := rfl

theorem State.withTask_withUnread (s : State) (t : TaskRegs) :
    (s.withUnread c seed n).withTask t = (s.withTask t).withUnread c seed n := rfl

theorem State.withMem_withUnread (s : State) (m : Memory) :
    (s.withUnread c seed n).withMem m = (s.withMem m).withUnread c seed n := rfl

theorem State.withFinished_withUnread (s : State) (ts : List Tally) :
    (s.withUnread c seed n).withFinished ts = (s.withFinished ts).withUnread c seed n := rfl

theorem State.setEbCell_withUnread (s : State) (bank kr ch col : Nat) (v : F32) :
    (s.withUnread c seed n).setEbCell bank kr ch col v = (s.setEbCell bank kr ch col v).withUnread c seed n := rfl

@[simp] theorem State.ebCell_withUnread (s : State) (bank kr ch col : Nat) :
    (s.withUnread c seed n).ebCell bank kr ch col = s.ebCell bank kr ch col := rfl

@[simp] theorem State.errEntry_withUnread (s : State) (q kr slot : Nat) :
    (s.withUnread c seed n).errEntry q kr slot = s.errEntry q kr slot := rfl

/-! A pixel (R163). Only step 3 asks for the noise to be the same. -/

theorem pixelResample_withUnread (s : State) :
    pixelResample (s.withUnread c seed n) = (pixelResample s).withUnread c seed n := rfl

theorem pixelAddError_withUnread (s : State) :
    pixelAddError (s.withUnread c seed n) = (pixelAddError s).withUnread c seed n := by
  unfold pixelAddError
  rw [State.ebCell_withUnread, State.withUnread_task, State.withTask_withUnread]

theorem pixelQuantise_withUnread (s : State) :
    pixelQuantise (s.withUnread c seed n) = (pixelQuantise s).withUnread c seed n := rfl

theorem pixelDot_withUnread (s : State) : pixelDot (s.withUnread c seed n) = (pixelDot s).withUnread c seed n := rfl

theorem shiftRow_withUnread (kr : Nat) (s : State) :
    shiftRow kr (s.withUnread c seed n) = (shiftRow kr s).withUnread c seed n := rfl

theorem pixelEmit_withUnread (s : State) : pixelEmit (s.withUnread c seed n) = (pixelEmit s).withUnread c seed n := rfl

theorem pixelAdvance_withUnread (s : State) :
    pixelAdvance (s.withUnread c seed n) = (pixelAdvance s).withUnread c seed n := rfl

theorem setupUnit_withUnread (u : WorkUnit) (s : State) :
    setupUnit u (s.withUnread c seed n) = (setupUnit u s).withUnread c seed n := rfl

theorem diffuseSlot_withUnread (kr slot : Nat) (s : State) :
    diffuseSlot kr slot (s.withUnread c seed n) = (diffuseSlot kr slot s).withUnread c seed n := by
  simp only [diffuseSlot, State.withUnread_task, State.ebCell_withUnread, State.errEntry_withUnread,
    State.setEbCell_withUnread, apply_ite (fun t : State => t.withUnread c seed n)]
  rfl

theorem diffuseRow_withUnread (kr : Nat) (s : State) :
    diffuseRow kr (s.withUnread c seed n) = (diffuseRow kr s).withUnread c seed n :=
  List.foldl_hom (fun t : State => t.withUnread c seed n) fun t slot => diffuseSlot_withUnread c seed n kr slot t

theorem pixelDiffuse_withUnread (s : State) :
    pixelDiffuse (s.withUnread c seed n) = (pixelDiffuse s).withUnread c seed n :=
  List.foldl_hom (fun t : State => t.withUnread c seed n) fun t kr => diffuseRow_withUnread c seed n kr t

theorem pixelShift_withUnread (s : State) : pixelShift (s.withUnread c seed n) = (pixelShift s).withUnread c seed n := by
  have hmoves : ∀ l : List Nat, l.foldl (fun s kr => shiftRow kr s) (s.withUnread c seed n)
      = (l.foldl (fun s kr => shiftRow kr s) s).withUnread c seed n := fun l =>
    List.foldl_hom (fun t : State => t.withUnread c seed n) fun t kr => shiftRow_withUnread c seed n kr t
  unfold pixelShift
  rw [show (s.withUnread c seed n).run.kh = s.run.kh from rfl, hmoves]
  rfl

end

section
variable {c : ConfigRegs} {seed : Word} {n : Nat}

/-- Step 3 is inactive with hysteresis 0; else the draw is named as before. -/
theorem pixelNoise_withUnread {s : State} (h : s.SameNoise seed n) :
    pixelNoise (s.withUnread c seed n) = (pixelNoise s).withUnread c seed n := by
  rcases h with hzero | ⟨rfl, rfl⟩
  · simp [pixelNoise, State.noiseActive, State.withUnread, hzero]
  · simp only [pixelNoise, State.withUnread_task, State.withTask_withUnread,
      apply_ite (fun t : State => t.withUnread c s.run.seed s.draws)]
    rfl

theorem pixel_withUnread {s : State} (h : s.SameNoise seed n) :
    pixel (s.withUnread c seed n) = (pixel s).withUnread c seed n := by
  have hnoise : (pixelAddError (pixelResample s)).SameNoise seed n := h.of_eq rfl rfl
  unfold pixel
  rw [pixelResample_withUnread, pixelAddError_withUnread, pixelNoise_withUnread hnoise, pixelQuantise_withUnread,
    pixelDot_withUnread, pixelDiffuse_withUnread, pixelShift_withUnread, pixelEmit_withUnread, pixelAdvance_withUnread]

theorem pixels_withUnread (k : Nat) {s : State} (h : s.SameNoise seed n) :
    pixels k (s.withUnread c seed n) = (pixels k s).withUnread c seed n := by
  induction k generalizing s with
  | zero => rfl
  | succ k ih => rw [pixels, pixel_withUnread h, ih (h.change (pixel_change s)), pixels]

/-! Work units and tasks (42_band_dispatch.md R200, R204). -/

theorem rowProcess_withUnread (u : WorkUnit) {s : State} (h : s.SameNoise seed n) :
    rowProcess u (s.withUnread c seed n) = (rowProcess u s).withUnread c seed n :=
  pixels_withUnread _ (h.change (setupUnit_change u s))

theorem runUnits_withUnread (l : List WorkUnit) {s : State} (h : s.SameNoise seed n) :
    runUnits l (s.withUnread c seed n) = (runUnits l s).withUnread c seed n := by
  induction l generalizing s with
  | nil => rfl
  | cons u l ih =>
    have htask : (s.withTask { s.task with units := l }).SameNoise seed n := h.of_eq rfl rfl
    calc runUnits (u :: l) (s.withUnread c seed n)
        = runUnits l (rowProcess u ((s.withTask { s.task with units := l }).withUnread c seed n)) := rfl
      _ = runUnits l ((rowProcess u (s.withTask { s.task with units := l })).withUnread c seed n) := by
        rw [rowProcess_withUnread u htask]
      _ = (runUnits (u :: l) s).withUnread c seed n := ih (htask.change (rowProcess_change u _))

theorem runTask_withUnread (l : List WorkUnit) {s : State} (h : s.SameNoise seed n) :
    runTask l (s.withUnread c seed n) = (runTask l s).withUnread c seed n := by
  have hunits := runUnits_withUnread (c := c) l (s := s.withTask { TaskRegs.idle with units := l }) (h.of_eq rfl rfl)
  unfold runTask
  rw [show (s.withUnread c seed n).withTask { TaskRegs.idle with units := l }
    = (s.withTask { TaskRegs.idle with units := l }).withUnread c seed n from rfl, hunits]
  rfl

theorem State.SameNoise.afterTask {s : State} (h : s.SameNoise seed n) (l : List WorkUnit) :
    (runTask l s).SameNoise seed n := by
  obtain ⟨t, ht, heq⟩ := runTask_spec l s
  rw [heq]
  exact (h.change ht).of_eq rfl rfl

theorem runTasks_withUnread (ls : List (List WorkUnit)) {s : State} (h : s.SameNoise seed n) :
    ls.foldl (fun s l => runTask l s) (s.withUnread c seed n)
      = (ls.foldl (fun s l => runTask l s) s).withUnread c seed n := by
  induction ls generalizing s with
  | nil => rfl
  | cons l ls ih => rw [List.foldl_cons, List.foldl_cons, runTask_withUnread l h, ih (h.afterTask l)]

/-! The PRINT elements a BAND of several tasks makes unspecified (R274, U5; log 11). -/

/-- A BAND of the run makes no PRINT element unspecified: it has one task, or no ink is shared. -/
def Run.KeepsPrint (r : Run) : Prop := r.tasks.length < 2 ∨ ∀ k, r.inkShared k = false

theorem Run.keepsPrint_of_inksDistinct {r : Run} (h : r.inksDistinct) : r.KeepsPrint := by
  refine .inr fun k => ?_
  rw [Run.inkShared, decide_eq_false_iff_not]
  intro htwo
  have hnodup := (List.nodup_range (n := r.c.toNat)).filter (fun c => decide (r.inkOf c = k))
  obtain ⟨a, b, rest, hl⟩ : ∃ a b rest, (List.range r.c.toNat).filter (fun c => r.inkOf c = k) = a :: b :: rest := by
    match hl : (List.range r.c.toNat).filter (fun c => r.inkOf c = k) with
    | [] | [_] => simp [hl] at htwo
    | a :: b :: rest => exact ⟨a, b, rest, rfl⟩
  rw [hl] at hnodup
  have hmem : ∀ c ∈ a :: b :: rest, c < r.c.toNat ∧ r.inkOf c = k := fun c hc => by simpa [← hl] using hc
  obtain ⟨ha, hak⟩ := hmem a (by simp)
  obtain ⟨hb, hbk⟩ := hmem b (by simp)
  have hab : a = b := h a b ha hb (hak.trans hbk.symm)
  simp [hab] at hnodup

theorem Run.keepsPrint_of_sequential {r : Run} (h : r.par = false ∨ r.threads.toNat < 2) : r.KeepsPrint := by
  refine .inl ?_
  have hone : ∀ k, 2 ≤ k → ¬ (r.par = true ∧ k ≤ r.threads.toNat) := by
    rintro k hk ⟨hpar, hthreads⟩
    rcases h with h | h
    · simp [h] at hpar
    · omega
  rw [Run.tasks, partition, if_neg (hone 8 (by decide)), if_neg (hone 4 (by decide)), if_neg (hone 2 (by decide))]
  simp

theorem State.loseSharedInks_of_keepsPrint {s : State} (h : s.run.KeepsPrint) : s.loseSharedInks = s := by
  unfold State.loseSharedInks
  rcases h with h | h
  · exact if_neg (by omega)
  · split
    · rw [List.foldl_fixed' fun k => by simp [h k]]
      rfl
    · rfl

theorem State.loseSharedInks_withUnread {s : State} (h : s.run.KeepsPrint ∨ n = s.draws) :
    (s.withUnread c seed n).loseSharedInks = s.loseSharedInks.withUnread c seed n := by
  rcases h with h | rfl
  · have h' : (s.withUnread c seed n).run.KeepsPrint := h
    rw [State.loseSharedInks_of_keepsPrint h, State.loseSharedInks_of_keepsPrint h']
  · simp only [State.loseSharedInks, State.withUnread_mem, State.withUnread_params, State.withMem_withUnread,
      apply_ite (fun t : State => t.withUnread c seed s.draws)]
    rfl

/-! The effects of ROW and BAND. -/

theorem runTask_draws (l : List WorkUnit) (s : State) : (runTask l s).draws = s.draws := by
  obtain ⟨t, ht, heq⟩ := runTask_spec l s
  rw [heq]
  exact ht.draws

theorem runTasks_draws (ls : List (List WorkUnit)) (s : State) :
    (ls.foldl (fun s l => runTask l s) s).draws = s.draws := by
  induction ls generalizing s with
  | nil => rfl
  | cons l ls ih => rw [List.foldl_cons, ih, runTask_draws]

theorem State.loseSharedInks_draws (s : State) : s.loseSharedInks.draws = s.draws := by
  unfold State.loseSharedInks
  split <;> rfl

theorem State.mergeTallies_draws (s : State) : s.mergeTallies.draws = s.draws := rfl

theorem rowEffect_draws (ch y : Nat) (s : State) : (rowEffect ch y s).draws = s.draws + 1 := by
  rw [rowEffect, State.nextDraw_draws, State.mergeTallies_draws, runTask_draws, State.withFinished_draws]

theorem bandEffect_draws (s : State) : (bandEffect s).draws = s.draws + 1 := by
  rw [bandEffect, State.nextDraw_draws, State.mergeTallies_draws, State.loseSharedInks_draws, runTasks_draws,
    State.withFinished_draws]

theorem rowEffect_withUnread (ch y : Nat) {s : State} (h : s.SameNoise seed n) :
    rowEffect ch y (s.withUnread c seed n) = (rowEffect ch y s).withUnread c seed (n + 1) := by
  have htask := runTask_withUnread (c := c) [(ch, y)] (s := s.withFinished []) (h.of_eq rfl rfl)
  unfold rowEffect
  rw [State.withFinished_withUnread, htask]
  rfl

theorem bandEffect_withUnread {s : State} (h : s.SameNoise seed n) (hprint : s.run.KeepsPrint ∨ n = s.draws) :
    bandEffect (s.withUnread c seed n) = (bandEffect s).withUnread c seed (n + 1) := by
  have htasks := runTasks_withUnread (c := c) s.run.tasks (s := s.withFinished []) (h.of_eq rfl rfl)
  have hrun := (DataChange.foldl (fun s l => runTask_dataChange l s) s.run.tasks (s.withFinished [])).run
  have hdraws := runTasks_draws s.run.tasks (s.withFinished [])
  unfold bandEffect
  rw [show (s.withUnread c seed n).run.tasks = s.run.tasks from rfl, State.withFinished_withUnread, htasks,
    State.loseSharedInks_withUnread (by rw [hrun, hdraws]; exact hprint)]
  rfl

/-! ROW and BAND in BUSY. -/

/-- How ROW and BAND are carried out (41_row_halftone.md R160, 42_band_dispatch.md R200): raise what the check found, or
do the effect and complete, if the run fits the spaces (log 13). -/
def checkedEffect (err : Option ErrCode) (effect : State → State) (s : State) : Result :=
  match err with
  | some e => .next (s.raise e)
  | none =>
    if s.run.fits s.params then .next ((effect s).complete s.readyFlag) else .fault .engineAccessOutsideSpace

theorem exec_row_of_busy {s : State} {r : Bool} {w : Word} {a : ConfigRegs} (hop : s.op = .busy r w a) (ch y : Nat) :
    exec (.row ch y) s = checkedEffect (rowError s ch y) (rowEffect ch y) s := by
  rw [exec, execRow, issue_busy _ _ _ _ _ _ hop]
  rfl

theorem exec_band_of_busy {s : State} {r : Bool} {w : Word} {a : ConfigRegs} (hop : s.op = .busy r w a) :
    exec .band s = checkedEffect (bandError s) bandEffect s := by
  rw [exec, execBand, issue_busy _ _ _ _ _ _ hop]
  rfl

theorem checkedEffect_withUnread {err : Option ErrCode} {effect : State → State} {s t : State}
    (heffect : effect (s.withUnread c seed n) = (effect s).withUnread c seed (n + 1))
    (hdraws : (effect s).draws = s.draws + 1) (hrun : (effect s).run = s.run)
    (h : checkedEffect err effect s = .next t) :
    ∃ k, t.draws = s.draws + k ∧ t.run = s.run ∧
      checkedEffect err effect (s.withUnread c seed n) = .next (t.withUnread c seed (n + k)) := by
  cases err with
  | some e =>
    cases h
    exact ⟨0, rfl, rfl, rfl⟩
  | none =>
    simp only [checkedEffect] at h ⊢
    split at h
    · next hfits =>
      cases h
      refine ⟨1, hdraws, hrun, ?_⟩
      have hfits' : (s.withUnread c seed n).run.fits (s.withUnread c seed n).params = true := hfits
      rw [if_pos hfits', heffect]
      rfl
    · cases h

/-- A BUSY engine's ROW or BAND leaves what it would have left, the unread fields apart; the draw counter moves on by
as much. -/
theorem exec_withUnread_of_busy {i : Instr} {s t : State} {r : Bool} {w : Word} {a : ConfigRegs}
    (hop : s.op = .busy r w a) (hi : (∃ ch y, i = .row ch y) ∨ (i = .band ∧ (s.run.KeepsPrint ∨ n = s.draws)))
    (hnoise : s.SameNoise seed n) (h : exec i s = .next t) :
    ∃ k, t.draws = s.draws + k ∧ t.run = s.run ∧
      exec i (s.withUnread c seed n) = .next (t.withUnread c seed (n + k)) := by
  have hop' : (s.withUnread c seed n).op = .busy r w a := hop
  have haccepted : (s.withUnread c seed n).acceptedCfg = s.acceptedCfg := by simp [State.acceptedCfg, hop, hop']
  rcases hi with ⟨ch, y, rfl⟩ | ⟨rfl, hprint⟩
  · have herr : rowError (s.withUnread c seed n) ch y = rowError s ch y := by
      simp only [rowError, haccepted]
      rfl
    rw [exec_row_of_busy hop] at h
    rw [exec_row_of_busy hop', herr]
    exact checkedEffect_withUnread (rowEffect_withUnread ch y hnoise) (rowEffect_draws ch y s)
      (rowEffect_dataChange ch y s).run h
  · have herr : bandError (s.withUnread c seed n) = bandError s := by
      simp only [bandError, haccepted]
      rfl
    rw [exec_band_of_busy hop] at h
    rw [exec_band_of_busy hop', herr]
    exact checkedEffect_withUnread (bandEffect_withUnread hnoise hprint) (bandEffect_draws s)
      (bandEffect_dataChange s).run h

end

/-! The two statements. -/

/-- Settles O14: the engine reads the configuration it accepted (log 3), and the rest of a command does not read the
live one. -/
theorem configWritesDoNotDisturbTheRunningCommand : Obligations.ConfigWritesDoNotDisturbTheRunningCommand := by
  intro i s t c hbusy h
  change exec i (s.withCfg c) = .next (t.withCfg c)
  obtain ⟨r, w, a, hop⟩ := s.op_of_busyFlag hbusy
  have hop' : (s.withCfg c).op = .busy r w a := hop
  have hpipeline : (∃ ch y, i = .row ch y) ∨ (i = .band ∧ (s.run.KeepsPrint ∨ s.draws = s.draws)) →
      exec i (s.withCfg c) = .next (t.withCfg c) := by
    intro hi
    obtain ⟨k, hdraws, hrun, heq⟩ := exec_withUnread_of_busy (c := c) hop hi (.inr ⟨rfl, rfl⟩) h
    calc exec i (s.withCfg c)
        = exec i (s.withUnread c s.run.seed s.draws) := rfl
      _ = .next (t.withUnread c s.run.seed (s.draws + k)) := heq
      _ = .next (t.withUnread c t.run.seed t.draws) := by rw [hrun, hdraws]
      _ = .next (t.withCfg c) := rfl
  cases i with
  | row ch y => exact hpipeline (.inl ⟨ch, y, rfl⟩)
  | band => exact hpipeline (.inr ⟨rfl, .inr rfl⟩)
  | nop =>
    simp only [exec, execNop, issue_busy _ _ _ _ _ _ hop, issue_busy _ _ _ _ _ _ hop'] at h ⊢
    cases h
    rfl
  | init =>
    have haccepted : (s.withCfg c).acceptedCfg = s.acceptedCfg := by simp [State.acceptedCfg, hop]
    simp only [exec, execInit, issue_busy _ _ _ _ _ _ hop, issue_busy _ _ _ _ _ _ hop', haccepted,
      State.withCfg_params] at h ⊢
    split at h
    · cases h
      rfl
    · cases h
      simp only [State.startRun, haccepted]
      rfl
  | endRun =>
    simp only [exec, execEnd, issue_busy _ _ _ _ _ _ hop, issue_busy _ _ _ _ _ _ hop'] at h ⊢
    split at h
    · next hready =>
      cases h
      exact if_pos hready
    · next hready =>
      cases h
      exact if_neg hready
  | clrerr =>
    simp only [exec, execClrerr, issue_busy _ _ _ _ _ _ hop, issue_busy _ _ _ _ _ _ hop'] at h ⊢
    cases h
    rfl

/-- Settles O36: with hysteresis 0 step 3 is inactive (R171), so no operation of ROW or BAND reads SEED or a draw. -/
theorem withoutNoiseSeedAndDrawsHaveNoEffect : Obligations.WithoutNoiseSeedAndDrawsHaveNoEffect := by
  intro i s t seed n hi hzero h
  have hpipeline : (∃ ch y, i = .row ch y) ∨ (i = .band ∧ s.run.KeepsPrint) := by
    refine hi.imp_right fun ⟨hband, hone⟩ => ⟨hband, ?_⟩
    exact hone.elim Run.keepsPrint_of_inksDistinct Run.keepsPrint_of_sequential
  have hbusy : ∀ {u : State} {r w a}, u.op = .busy r w a → u.run = s.run → exec i u = .next t →
      ∃ v, exec i (u.withUnread u.cfg seed n) = .next v ∧ v.mem = t.mem := by
    intro u r w a hop hrun hu
    obtain ⟨k, -, -, heq⟩ := exec_withUnread_of_busy (c := u.cfg) (seed := seed) (n := n) hop
      (hpipeline.imp_right fun ⟨hband, hprint⟩ => ⟨hband, .inl (hrun ▸ hprint)⟩) (.inl (hrun ▸ hzero)) hu
    exact ⟨_, heq, rfl⟩
  have hresting : ∀ {r}, s.op = restingOp r → ∃ v, exec i (s.withUnread s.cfg seed n) = .next v ∧ v.mem = t.mem := by
    intro r hop
    rw [exec_resting i hop] at h
    rw [exec_resting i (s := s.withUnread s.cfg seed n) hop]
    exact hbusy (u := s.accept (encode i)) rfl rfl h
  change ∃ v, exec i (s.withUnread s.cfg seed n) = .next v ∧ v.mem = t.mem
  cases hop : s.op with
  | idle => exact hresting (r := false) hop
  | ready => exact hresting (r := true) hop
  | busy r w a => exact hbusy hop rfl h
  | error e =>
    have hne : i ≠ .clrerr := by rcases hpipeline with ⟨ch, y, rfl⟩ | ⟨rfl, -⟩ <;> simp
    rw [exec_error hop hne] at h
    cases h
    exact ⟨_, exec_error (s := s.withUnread s.cfg seed n) hop hne, rfl⟩

end Sys2Proof.Machine
end

section
/-! Bytes stay inside the spaces (20_memory.md R77): the memory operations, the engine's index formulas (10_state.md R52
to R58) and, with them, every operation of the row pipeline. -/

namespace Sys2Proof.Machine

/-! The memory operations. -/

theorem Memory.set_within {p : Config.Params} {m : Memory} {sp : Space} {id : SpaceId} (hm : m.within p)
    (hs : sp.within p id) : (m.set sp id).within p := by
  intro jd
  rw [Memory.get_set]
  split
  · next h => exact h ▸ hs
  · exact hm jd

theorem Memory.writeElem_within {p : Config.Params} {m : Memory} {id : SpaceId} {i : Nat} (hm : m.within p)
    (hi : i < capacity p id) (v : Word) : (m.writeElem id i v).within p := by
  refine Memory.set_within hm fun cell hcell => ?_
  rcases Space.mem_writeBytes _ _ _ _ cell hcell with ⟨-, hlt⟩ | hold
  · calc cell.1 < i * elemBytes id + elemBytes id := hlt
      _ = (i + 1) * elemBytes id := (Nat.succ_mul i _).symm
      _ ≤ capacity p id * elemBytes id := Nat.mul_le_mul_right _ hi
  · exact hm id cell hold

/-- A space that lists no byte lists none outside. -/
theorem Space.within_of_cells_nil (p : Config.Params) (id : SpaceId) {sp : Space} (h : sp.cells = []) :
    sp.within p id := by
  intro cell hcell
  rw [h] at hcell
  cases hcell

theorem Memory.clearSpace_within {p : Config.Params} {m : Memory} (hm : m.within p) (id : SpaceId) :
    (m.clearSpace id).within p :=
  Memory.set_within hm (Space.within_of_cells_nil p id rfl)

theorem Memory.loseSpace_within {p : Config.Params} {m : Memory} (hm : m.within p) (id : SpaceId) (n : Nat) :
    (m.loseSpace id n).within p :=
  Memory.set_within hm (Space.within_of_cells_nil p id rfl)

theorem Memory.unspecified_within (p : Config.Params) (n : Nat) : (Memory.unspecified n).within p :=
  fun id => Space.within_of_cells_nil p id (by cases id <;> rfl)

theorem Memory.foldl_within {α : Type} {p : Config.Params} {f : Memory → α → Memory} {l : List α}
    (hf : ∀ a ∈ l, ∀ m, m.within p → (f m a).within p) {m : Memory} (hm : m.within p) : (l.foldl f m).within p := by
  induction l generalizing m with
  | nil => exact hm
  | cons a l ih =>
    obtain ⟨hhead, htail⟩ := List.forall_mem_cons.1 hf
    exact ih htail (hhead m hm)

/-! The index formulas (R55 to R58). -/

theorem Run.fits_bounds {p : Config.Params} {r : Run} (h : r.fits p = true) :
    1 ≤ r.kh.toNat ∧ r.kh.toNat ≤ 4 ∧ r.c.toNat ≤ 16 ∧ r.outw.toNat ≤ p.ebMaxW ∧
      r.outw.toNat * r.outh.toNat ≤ p.pbMaxPix := by
  simp only [Run.fits, Bool.and_eq_true, decide_eq_true_eq] at h
  omega

/-- Position `j` of block `i`, both inside, is inside the blocks. -/
theorem mul_add_lt_mul {i j n w : Nat} (hi : i < n) (hj : j < w) : i * w + j < n * w := by
  calc i * w + j < i * w + w := Nat.add_lt_add_left hj _
    _ = (i + 1) * w := (Nat.succ_mul i w).symm
    _ ≤ n * w := Nat.mul_le_mul_right w hi

theorem ebIndex_lt {p : Config.Params} {bank kr c col : Nat} (hbank : bank < 2) (hkr : kr < 4) (hc : c < 16)
    (hcol : col < p.ebMaxW) : ebIndex p bank kr c col < capacity p .eb := by
  have hrow : (bank * 4 + kr) * 16 + c < 128 := by omega
  exact mul_add_lt_mul hrow hcol

theorem Run.inkOf_lt (r : Run) (c : Nat) : r.inkOf c < 16 := (r.ink.extractLsb' (4 * c) 4).isLt

theorem pixel_lt {r : Run} {x y : Nat} (hx : x < r.outw.toNat) (hy : y < r.outh.toNat) :
    y * r.outw.toNat + x < r.outw.toNat * r.outh.toNat :=
  (mul_add_lt_mul hy hx).trans_eq (Nat.mul_comm _ _)

theorem printElem_lt {p : Config.Params} {k i : Nat} (hk : k < 16) (hi : i < p.pbMaxPix) :
    k * p.pbMaxPix + i < capacity p .print :=
  mul_add_lt_mul hk hi

theorem printIndex_lt {p : Config.Params} {r : Run} {k x y : Nat} (hfits : r.fits p = true) (hk : k < 16)
    (hx : x < r.outw.toNat) (hy : y < r.outh.toNat) : printIndex p r k x y < capacity p .print := by
  obtain ⟨-, -, -, -, hpix⟩ := Run.fits_bounds hfits
  rw [printIndex, Nat.add_assoc]
  exact printElem_lt hk (Nat.lt_of_lt_of_le (pixel_lt hx hy) hpix)

theorem previewIndex_lt {p : Config.Params} {r : Run} {x y c : Nat} (hfits : r.fits p = true)
    (hx : x < r.outw.toNat) (hy : y < r.outh.toNat) (hc : c < r.c.toNat) :
    previewIndex r x y c < capacity p .preview := by
  obtain ⟨-, -, hchan, -, hpix⟩ := Run.fits_bounds hfits
  calc previewIndex r x y c < r.outw.toNat * r.outh.toNat * r.c.toNat := mul_add_lt_mul (pixel_lt hx hy) hc
    _ ≤ p.pbMaxPix * 16 := Nat.mul_le_mul hpix hchan
    _ = 16 * p.pbMaxPix := Nat.mul_comm _ _

theorem tallyIndex_lt {k d : Nat} (hk : k < 16) (hd : d < 256) : tallyIndex k d < 4096 := mul_add_lt_mul hk hd

/-! Local tallies (10_state.md R46): the counters they list are counters TALLY has. -/

/-- Every counter a local tally lists is an element of TALLY (R58). -/
def Tally.inside (t : Tally) : Prop := ∀ kn ∈ t, kn.1 < 4096

theorem Tally.inside_nil : Tally.inside [] := fun _ h => nomatch h

theorem tallyBump_inside {k : Nat} {t : Tally} (hk : k < 4096) (ht : t.inside) : (tallyBump k t).inside := by
  induction t with
  | nil => exact List.forall_mem_singleton.2 hk
  | cons jn t ih =>
    obtain ⟨hhead, htail⟩ := List.forall_mem_cons.1 ht
    unfold tallyBump
    split
    · exact List.forall_mem_cons.2 ⟨hhead, htail⟩
    · exact List.forall_mem_cons.2 ⟨hhead, ih htail⟩

theorem mergeTally_within {p : Config.Params} {t : Tally} (ht : t.inside) {m : Memory} (hm : m.within p) :
    (mergeTally m t).within p :=
  Memory.foldl_within (fun kn hkn _ hm => Memory.writeElem_within hm (ht kn hkn) _) hm

/-! A work unit (41_row_halftone.md R163). -/

/-- What the engine's operations rest on: the run fits the spaces, and nothing is listed outside them. -/
structure Contained (s : State) : Prop where
  fits : s.run.fits s.params = true
  mem : s.mem.within s.params
  tally : s.task.tally.inside

/-- The work unit in progress is one of the run, with `n` pixels still to do: the columns from here to the end of the
scan are columns of the row, in either direction (R162, R163). -/
structure Scanning (n : Nat) (s : State) : Prop extends Contained s where
  chan : s.task.ch < s.run.c.toNat
  row : s.task.y < s.run.outh.toNat
  bank : s.task.b < 2
  scan : (s.task.step = 1 ∧ 0 ≤ s.task.x ∧ s.task.x + n = s.run.outw.toNat) ∨
    (s.task.step = -1 ∧ s.task.x + 1 = n ∧ n ≤ s.run.outw.toNat)

section
variable {n : Nat} {s : State}

theorem Scanning.column_lt (h : Scanning (n + 1) s) : s.task.x.toNat < s.run.outw.toNat := by
  have hscan := h.scan
  omega

/-- The working registers that hold values, and not the place in the scan, are free to change. -/
theorem Scanning.withTask (h : Scanning n s) (avg v8 q : Nat) (a : F32) (dot : Byte) :
    Scanning n (s.withTask { s.task with avg := avg, v8 := v8, a := a, q := q, dot := dot }) := { h with }

theorem Scanning.setEbCell (h : Scanning n s) {bank kr ch col : Nat} (hbank : bank < 2) (hkr : kr < 4)
    (hch : ch < s.run.c.toNat) (hcol : col < s.run.outw.toNat) (v : F32) : Scanning n (s.setEbCell bank kr ch col v) := by
  obtain ⟨-, -, hchan, houtw, -⟩ := Run.fits_bounds h.fits
  exact { h with mem := Memory.writeElem_within h.mem (ebIndex_lt hbank hkr (by omega) (by omega)) v }

/-- A fold of operations that keep the scan's place and the spaces keeps them. -/
theorem Scanning.foldl {α : Type} {f : State → α → State} {l : List α}
    (hf : ∀ a ∈ l, ∀ s, Scanning n s → Scanning n (f s a)) (h : Scanning n s) : Scanning n (l.foldl f s) := by
  induction l generalizing s with
  | nil => exact h
  | cons a l ih =>
    obtain ⟨hhead, htail⟩ := List.forall_mem_cons.1 hf
    exact ih htail (hhead s h)

/-! Steps 1 to 4 write no memory. -/

theorem Scanning.pixelResample (h : Scanning n s) : Scanning n (pixelResample s) :=
  h.withTask s.task.avg _ s.task.q s.task.a s.task.dot

theorem Scanning.pixelAddError (h : Scanning n s) : Scanning n (pixelAddError s) :=
  h.withTask s.task.avg s.task.v8 s.task.q _ s.task.dot

theorem Scanning.pixelNoise (h : Scanning n s) : Scanning n (pixelNoise s) := by
  unfold Machine.pixelNoise
  split
  · exact h.withTask _ s.task.v8 s.task.q _ s.task.dot
  · exact h

theorem Scanning.pixelQuantise (h : Scanning n s) : Scanning n (pixelQuantise s) :=
  h.withTask s.task.avg s.task.v8 _ s.task.a s.task.dot

theorem Scanning.pixelDot (h : Scanning n s) : Scanning n (pixelDot s) :=
  h.withTask s.task.avg s.task.v8 s.task.q s.task.a _

/-! Steps 5 and 6 write EB (R176 to R178). -/

/-- A slot's target is in the row or receives nothing (R177). -/
theorem Scanning.diffuseSlot (h : Scanning n s) {kr : Nat} (hkr : kr < 4) (slot : Nat) :
    Scanning n (diffuseSlot kr slot s) := by
  unfold Machine.diffuseSlot
  dsimp only
  split
  · exact h.setEbCell h.bank hkr h.chan (by omega) _
  · exact h

theorem Scanning.pixelDiffuse (h : Scanning n s) : Scanning n (pixelDiffuse s) := by
  obtain ⟨-, hkh, -⟩ := Run.fits_bounds h.fits
  refine h.foldl fun kr hkr s hs => hs.foldl fun slot _ s hs => hs.diffuseSlot ?_ slot
  exact Nat.lt_of_lt_of_le (List.mem_range.1 hkr) hkh

theorem Scanning.pixelShift (h : Scanning (n + 1) s) : Scanning (n + 1) (pixelShift s) := by
  obtain ⟨hpos, hkh, -⟩ := Run.fits_bounds h.fits
  have hmoved : Scanning (n + 1) ((List.range (s.run.kh.toNat - 1)).foldl (fun s kr => shiftRow kr s) s) := by
    refine h.foldl fun kr hkr s hs => hs.setEbCell hs.bank ?_ hs.chan hs.column_lt _
    have := List.mem_range.1 hkr
    omega
  have hrun : ((List.range (s.run.kh.toNat - 1)).foldl (fun s kr => shiftRow kr s) s).run = s.run :=
    (PipelineChange.foldl (fun s kr => shiftRow kr s) (fun s _ => .ofEb s _ _ _ _ _) _ s).run
  exact hmoved.setEbCell h.bank (by omega) (by rw [hrun]; exact h.chan) (by rw [hrun]; exact h.column_lt) _

/-! Step 7 writes PRINT and PREVIEW and counts the dot (43_output_encoder.md R220 to R224). -/

theorem Scanning.pixelEmit (h : Scanning (n + 1) s) : Scanning (n + 1) (pixelEmit s) := by
  have hink := s.run.inkOf_lt s.task.ch
  have hprint := Memory.writeElem_within h.mem (printIndex_lt h.fits hink h.column_lt h.row) (s.task.dot.setWidth 32)
  exact { h with
    mem := Memory.writeElem_within hprint (previewIndex_lt h.fits h.column_lt h.row h.chan) _
    tally := tallyBump_inside (tallyIndex_lt hink s.task.dot.isLt) h.tally }

theorem Scanning.pixelAdvance (h : Scanning (n + 1) s) : Scanning n (pixelAdvance s) := by
  refine { h with scan := ?_ }
  have hscan := h.scan
  change (s.task.step = 1 ∧ 0 ≤ s.task.x + s.task.step ∧ s.task.x + s.task.step + n = s.run.outw.toNat) ∨
    (s.task.step = -1 ∧ s.task.x + s.task.step + 1 = n ∧ n ≤ s.run.outw.toNat)
  omega

theorem Scanning.pixel (h : Scanning (n + 1) s) : Scanning n (pixel s) :=
  h.pixelResample.pixelAddError.pixelNoise.pixelQuantise.pixelDot.pixelDiffuse.pixelShift.pixelEmit.pixelAdvance

theorem Scanning.pixels (h : Scanning n s) : Scanning 0 (pixels n s) := by
  induction n generalizing s with
  | zero => exact h
  | succ n ih => exact ih h.pixel

end

/-- A work unit of the run: its channel and its row are the run's (00_scope.md R18). -/
def Run.HasUnit (r : Run) (u : WorkUnit) : Prop := u.1 < r.c.toNat ∧ u.2 < r.outh.toNat

theorem Contained.setupUnit {s : State} (h : Contained s) {u : WorkUnit} (hu : s.run.HasUnit u) :
    Scanning s.run.outw.toNat (setupUnit u s) := by
  refine { h with chan := hu.1, row := hu.2, bank := Nat.mod_lt _ Nat.zero_lt_two, scan := ?_ }
  dsimp only [Machine.setupUnit, State.withTask]
  cases reverseScan s.run u.2 with
  | false => exact .inl ⟨rfl, Int.le_refl 0, Int.zero_add _⟩
  | true => exact .inr ⟨rfl, Int.sub_add_cancel _ 1, Nat.le_refl _⟩

theorem Contained.rowProcess {s : State} (h : Contained s) {u : WorkUnit} (hu : s.run.HasUnit u) :
    Contained (rowProcess u s) :=
  (h.setupUnit hu).pixels.toContained

theorem Contained.runUnits {l : List WorkUnit} {s : State} (h : Contained s) (hl : ∀ u ∈ l, s.run.HasUnit u) :
    Contained (runUnits l s) := by
  induction l generalizing s with
  | nil => exact h
  | cons u l ih =>
    obtain ⟨hhead, htail⟩ := List.forall_mem_cons.1 hl
    have hstart : Contained (s.withTask { s.task with units := l }) := { h with }
    refine ih (hstart.rowProcess hhead) ?_
    rw [(rowProcess_change u _).run]
    exact htail

end Sys2Proof.Machine
end

section
/-! What a command and a step can do to the memory, said once, and what follows for the spaces it stays inside
(20_memory.md R77) and for the spaces it may change (R81). -/

namespace Sys2Proof.Machine

/-! The tasks and the join (42_band_dispatch.md R200, R207). -/

/-- What the join rests on: the run fits the spaces, and neither the memory nor a waiting tally lists anything outside
them. -/
structure Joining (s : State) : Prop where
  fits : s.run.fits s.params = true
  mem : s.mem.within s.params
  finished : ∀ t ∈ s.finished, Tally.inside t

theorem Joining.runTask {l : List WorkUnit} {s : State} (h : Joining s) (hl : ∀ u ∈ l, s.run.HasUnit u) :
    Joining (runTask l s) := by
  have hstart : Contained (s.withTask { TaskRegs.idle with units := l }) := ⟨h.fits, h.mem, Tally.inside_nil⟩
  have hdone := hstart.runUnits hl
  refine ⟨hdone.fits, hdone.mem, ?_⟩
  change ∀ t ∈ (runUnits l _).finished ++ [_], Tally.inside t
  rw [(runUnits_change l _).finished]
  exact List.forall_mem_append.2 ⟨h.finished, List.forall_mem_singleton.2 hdone.tally⟩

theorem Joining.runTasks {ls : List (List WorkUnit)} {s : State} (h : Joining s)
    (hls : ∀ l ∈ ls, ∀ u ∈ l, s.run.HasUnit u) : Joining (ls.foldl (fun s l => Machine.runTask l s) s) := by
  induction ls generalizing s with
  | nil => exact h
  | cons l ls ih =>
    obtain ⟨hhead, htail⟩ := List.forall_mem_cons.1 hls
    refine ih (h.runTask hhead) ?_
    rw [(runTask_dataChange l s).run]
    exact htail

theorem losePrint_within {p : Config.Params} {k n : Nat} (d : Nat) (hk : k < 16) (hn : n ≤ p.pbMaxPix) {m : Memory}
    (hm : m.within p) : (losePrint p d k n m).within p := by
  induction n generalizing m with
  | zero => exact hm
  | succ n ih => exact ih (Nat.le_of_succ_le hn) (Memory.writeElem_within hm (printElem_lt hk hn) _)

theorem Joining.loseSharedInks {s : State} (h : Joining s) : Joining s.loseSharedInks := by
  obtain ⟨-, -, -, -, hpix⟩ := Run.fits_bounds h.fits
  unfold State.loseSharedInks
  split
  · refine { h with mem := Memory.foldl_within (fun k hk m hm => ?_) h.mem }
    split
    · exact losePrint_within _ (List.mem_range.1 hk) hpix hm
    · exact hm
  · exact h

theorem Joining.mergeTallies_within {s : State} (h : Joining s) : s.mergeTallies.mem.within s.params :=
  Memory.foldl_within (fun t ht _ hm => mergeTally_within (h.finished t ht) hm) h.mem

/-! The units BAND forms (R203). -/

theorem mem_unitsOfRows {chans : Nat} {rows : List Nat} {u : WorkUnit} (h : u ∈ unitsOfRows chans rows) :
    u.1 < chans ∧ u.2 ∈ rows := by
  simp only [unitsOfRows, List.mem_flatMap, List.mem_map, List.mem_range] at h
  obtain ⟨y, hy, c, hc, rfl⟩ := h
  exact ⟨hc, hy⟩

theorem mem_rowsOfParity {p outh y : Nat} (h : y ∈ rowsOfParity p outh) : y < outh :=
  List.mem_range.1 (List.mem_of_mem_filter h)

theorem mem_unitsOfKey {outh c p : Nat} {u : WorkUnit} (h : u ∈ unitsOfKey outh c p) : u.1 = c ∧ u.2 < outh := by
  obtain ⟨y, hy, rfl⟩ := List.mem_map.1 h
  exact ⟨rfl, mem_rowsOfParity hy⟩

theorem mem_unitsOfChannel {outh c : Nat} {u : WorkUnit} (h : u ∈ unitsOfChannel outh c) : u.1 = c ∧ u.2 < outh := by
  obtain ⟨y, hy, rfl⟩ := List.mem_map.1 h
  exact ⟨rfl, List.mem_range.1 hy⟩

/-- Every unit of every task is one of the run's, whatever the thread budget. -/
theorem Run.tasks_hasUnit (r : Run) : ∀ l ∈ r.tasks, ∀ u ∈ l, r.HasUnit u := by
  intro l hl u hu
  unfold Run.tasks partition at hl
  split at hl
  · obtain ⟨c, hc, hkey⟩ := List.mem_flatMap.1 hl
    rcases List.mem_pair.1 hkey with rfl | rfl
    · obtain ⟨rfl, hy⟩ := mem_unitsOfKey hu
      exact ⟨List.mem_range.1 hc, hy⟩
    · obtain ⟨rfl, hy⟩ := mem_unitsOfKey hu
      exact ⟨List.mem_range.1 hc, hy⟩
  split at hl
  · obtain ⟨c, hc, rfl⟩ := List.mem_map.1 hl
    obtain ⟨rfl, hy⟩ := mem_unitsOfChannel hu
    exact ⟨List.mem_range.1 hc, hy⟩
  split at hl
  · rcases List.mem_pair.1 hl with rfl | rfl
    · exact (mem_unitsOfRows hu).imp_right mem_rowsOfParity
    · exact (mem_unitsOfRows hu).imp_right mem_rowsOfParity
  · obtain rfl := List.mem_singleton.1 hl
    exact (mem_unitsOfRows hu).imp_right List.mem_range.1

/-! The effects of ROW and BAND. -/

theorem rowEffect_within {s : State} {ch y : Nat} (hfits : s.run.fits s.params = true) (hmem : s.mem.within s.params)
    (hunit : s.run.HasUnit (ch, y)) : (rowEffect ch y s).mem.within s.params := by
  have hstart : Joining (s.withFinished []) := ⟨hfits, hmem, fun _ h => nomatch h⟩
  have htask := hstart.runTask (List.forall_mem_singleton.2 hunit)
  have hparams : (runTask [(ch, y)] (s.withFinished [])).params = s.params := (runTask_dataChange _ _).params
  exact hparams ▸ htask.mergeTallies_within

theorem bandEffect_within {s : State} (hfits : s.run.fits s.params = true) (hmem : s.mem.within s.params) :
    (bandEffect s).mem.within s.params := by
  have hstart : Joining (s.withFinished []) := ⟨hfits, hmem, fun _ h => nomatch h⟩
  have htasks := (hstart.runTasks s.run.tasks_hasUnit).loseSharedInks
  have hparams := (DataChange.foldl (fun s l => runTask_dataChange l s) s.run.tasks (s.withFinished [])).params
  have hlost := (loseSharedInks_dataChange (s.run.tasks.foldl (fun s l => runTask l s) (s.withFinished []))).params
  exact (hlost.trans hparams) ▸ htasks.mergeTallies_within

/-- The four spaces no command writes (20_memory.md R81): DOT, ERRTAB, PVLUT and RASTER. -/
structure InputsKept (m m' : Memory) : Prop where
  dot : m'.dot = m.dot
  errtab : m'.errtab = m.errtab
  pvlut : m'.pvlut = m.pvlut
  raster : m'.raster = m.raster

theorem InputsKept.refl (m : Memory) : InputsKept m m := ⟨rfl, rfl, rfl, rfl⟩

theorem InputsKept.trans {m m' m'' : Memory} (h : InputsKept m m') (k : InputsKept m' m'') : InputsKept m m'' :=
  ⟨k.dot.trans h.dot, k.errtab.trans h.errtab, k.pvlut.trans h.pvlut, k.raster.trans h.raster⟩

theorem inputsKept_of_get {m m' : Memory}
    (h : ∀ id, id ≠ .eb → id ≠ .print → id ≠ .preview → id ≠ .tally → m'.get id = m.get id) : InputsKept m m' where
  dot := h .dot nofun nofun nofun nofun
  errtab := h .errtab nofun nofun nofun nofun
  pvlut := h .pvlut nofun nofun nofun nofun
  raster := h .raster nofun nofun nofun nofun

theorem runTask_inputsKept (l : List WorkUnit) (s : State) : InputsKept s.mem (runTask l s).mem := by
  obtain ⟨t, ht, heq⟩ := runTask_spec l s
  rw [heq]
  exact ⟨ht.dot, ht.errtab, ht.pvlut, ht.raster⟩

theorem runTasks_inputsKept (ls : List (List WorkUnit)) (s : State) :
    InputsKept s.mem (ls.foldl (fun s l => runTask l s) s).mem := by
  induction ls generalizing s with
  | nil => exact .refl _
  | cons l ls ih => exact (runTask_inputsKept l s).trans (ih _)

theorem mergeTallies_inputsKept (s : State) : InputsKept s.mem s.mergeTallies.mem :=
  inputsKept_of_get fun id _ _ _ htally => mergeTallies_get s id htally

theorem loseSharedInks_inputsKept (s : State) : InputsKept s.mem s.loseSharedInks.mem := by
  unfold State.loseSharedInks
  split
  · refine List.foldlRecOn (motive := InputsKept s.mem) _ _ (.refl _) fun m hm k _ => hm.trans ?_
    split
    · exact inputsKept_of_get fun id _ hprint _ _ => losePrint_get _ _ _ _ _ id hprint
    · exact .refl m
  · exact .refl _

theorem rowEffect_inputsKept (ch y : Nat) (s : State) : InputsKept s.mem (rowEffect ch y s).mem :=
  (runTask_inputsKept [(ch, y)] (s.withFinished [])).trans (mergeTallies_inputsKept _)

theorem bandEffect_inputsKept (s : State) : InputsKept s.mem (bandEffect s).mem :=
  ((runTasks_inputsKept s.run.tasks (s.withFinished [])).trans (loseSharedInks_inputsKept _)).trans
    (mergeTallies_inputsKept _)

/-! A command. -/

/-- Every memory a command can leave: the one it found; INIT's, EB and TALLY cleared (R141); END's, EB lost (R146); what
ROW or BAND leave, carried out under `op` with their checks passed. -/
inductive CommandMem (s : State) : Instr → Memory → Prop where
  | same (i : Instr) : CommandMem s i s.mem
  | started : CommandMem s .init ((s.mem.clearSpace .eb).clearSpace .tally)
  | ended : CommandMem s .endRun (s.mem.loseSpace .eb s.draws)
  | row {ch y : Nat} (op : OpState) (hunit : s.run.HasUnit (ch, y)) (hfits : s.run.fits s.params = true) :
      CommandMem s (.row ch y) (rowEffect ch y (s.withOp op)).mem
  | band (op : OpState) (hfits : s.run.fits s.params = true) : CommandMem s .band (bandEffect (s.withOp op)).mem

/-- A command that answers was carried out as by a BUSY engine, or ignored as a violation (60_exceptions.md R231). -/
theorem exec_next_cases {i : Instr} {s t : State} (h : exec i s = .next t) :
    (∃ r w c, exec i (s.withOp (.busy r w c)) = .next t) ∨ t = s.violate := by
  obtain ⟨f, hf⟩ := exec_eq_issue i
  have hcarried {r w c} : exec i (s.withOp (.busy r w c)) = f (s.withOp (.busy r w c)) :=
    (hf _).trans (issue_busy i _ f r w c rfl)
  rcases issue_cases i s f with ⟨heq, hbusy⟩ | ⟨heq, -⟩ | ⟨heq, -⟩
  · obtain ⟨r, w, c, hop⟩ := s.op_of_busyFlag hbusy
    have hself : s.withOp (.busy r w c) = s := hop ▸ rfl
    exact .inl ⟨r, w, c, by rw [hself, h]⟩
  · exact .inl ⟨_, _, _, hcarried.trans (heq.symm.trans ((hf s).symm.trans h))⟩
  · rw [hf s, heq] at h
    cases h
    exact .inr rfl

theorem hasUnit_of_rowError {s : State} {ch y : Nat} (h : rowError s ch y = none) : s.run.HasUnit (ch, y) := by
  unfold rowError at h
  split at h
  · cases h
  split at h
  · cases h
  · next hinside => exact not_or.1 hinside |>.imp Nat.lt_of_not_le Nat.lt_of_not_le

/-- ROW and BAND raise and write nothing, or have passed their checks and leave their effect. -/
theorem checkedEffect_mem_cases {err : Option ErrCode} {effect : State → State} {s t : State}
    (h : checkedEffect err effect s = .next t) :
    t.mem = s.mem ∨ err = none ∧ s.run.fits s.params = true ∧ t.mem = (effect s).mem := by
  unfold checkedEffect at h
  split at h
  · cases h
    exact .inl rfl
  · split at h <;> cases h
    exact .inr ⟨rfl, ‹_›, rfl⟩

theorem exec_commandMem {i : Instr} {s t : State} (h : exec i s = .next t) : CommandMem s i t.mem := by
  rcases exec_next_cases h with ⟨r, w, c, h⟩ | rfl
  swap
  · exact .same i
  cases i with
  | nop | clrerr =>
    cases h
    exact .same _
  | init =>
    simp only [exec, execInit, issue, State.withOp_op] at h
    split at h <;> cases h
    · exact .same _
    · exact .started
  | endRun =>
    simp only [exec, execEnd, issue, State.withOp_op] at h
    split at h <;> cases h
    · exact .ended
    · exact .same _
  | row ch y =>
    rw [exec_row_of_busy rfl] at h
    rcases checkedEffect_mem_cases h with hsame | ⟨herr, hfits, heffect⟩
    · exact hsame ▸ .same _
    · have hunit := hasUnit_of_rowError herr
      exact heffect ▸ .row _ hunit hfits
  | band =>
    rw [exec_band_of_busy rfl] at h
    rcases checkedEffect_mem_cases h with hsame | ⟨-, hfits, heffect⟩
    · exact hsame ▸ .same _
    · exact heffect ▸ .band _ hfits

theorem CommandMem.within {s : State} {i : Instr} {m : Memory} (h : CommandMem s i m) (hmem : s.mem.within s.params) :
    m.within s.params := by
  cases h with
  | same => exact hmem
  | started => exact Memory.clearSpace_within (Memory.clearSpace_within hmem .eb) .tally
  | ended => exact Memory.loseSpace_within hmem .eb s.draws
  | row op hunit hfits => exact rowEffect_within (s := s.withOp op) hfits hmem hunit
  | band op hfits => exact bandEffect_within (s := s.withOp op) hfits hmem

theorem CommandMem.inputsKept {s : State} {i : Instr} {m : Memory} (h : CommandMem s i m) : InputsKept s.mem m := by
  cases h with
  | same => exact .refl _
  | started => exact ⟨rfl, rfl, rfl, rfl⟩
  | ended => exact ⟨rfl, rfl, rfl, rfl⟩
  | row op => exact rowEffect_inputsKept _ _ (s.withOp op)
  | band op => exact bandEffect_inputsKept (s.withOp op)

theorem CommandMem.eq_of_nop {s : State} {m : Memory} (h : CommandMem s .nop m) : m = s.mem := by
  cases h
  rfl

theorem CommandMem.eq_of_clrerr {s : State} {m : Memory} (h : CommandMem s .clrerr m) : m = s.mem := by
  cases h
  rfl

theorem CommandMem.get_of_init {s : State} {m : Memory} (h : CommandMem s .init m) {id : SpaceId} (heb : id ≠ .eb)
    (htally : id ≠ .tally) : m.get id = s.mem.get id := by
  cases h with
  | same => rfl
  | started => rw [Memory.clearSpace, Memory.get_set, if_neg htally, Memory.clearSpace, Memory.get_set, if_neg heb]

theorem CommandMem.get_of_endRun {s : State} {m : Memory} (h : CommandMem s .endRun m) {id : SpaceId}
    (heb : id ≠ .eb) : m.get id = s.mem.get id := by
  cases h with
  | same => rfl
  | ended => rw [Memory.loseSpace, Memory.get_set, if_neg heb]

/-- Settles O15, off the memories each command can leave. -/
theorem commandsChangeOnlyTheirSpaces : Obligations.CommandsChangeOnlyTheirSpaces := by
  refine ⟨fun s t h => (exec_commandMem h).eq_of_nop, fun s t h => (exec_commandMem h).eq_of_clrerr,
    fun s t h id heb htally => (exec_commandMem h).get_of_init heb htally,
    fun s t h id heb => (exec_commandMem h).get_of_endRun heb, fun i s t h => ?_⟩
  obtain ⟨hdot, herrtab, hpvlut, hraster⟩ := (exec_commandMem h).inputsKept
  exact ⟨hdot, herrtab, hpvlut, hraster⟩

/-! A step. -/

theorem engineTurn_within {s t : State} (hmem : s.mem.within s.params) (h : engineTurn s = .next t) :
    t.mem.within s.params := by
  unfold engineTurn at h
  split at h
  · split at h
    · exact (exec_commandMem h).within hmem
    · cases h; exact hmem
  · cases h; exact hmem

theorem softReset_within {s : State} (hmem : s.mem.within s.params) : s.softReset.mem.within s.params := by
  unfold State.softReset
  split
  · exact Memory.loseSpace_within (Memory.loseSpace_within (Memory.loseSpace_within (Memory.loseSpace_within hmem _ _)
      _ _) _ _) _ _
  · exact hmem

/-- A MEMDATA write out of range stores nothing (R79). -/
theorem writeMemData_within {s : State} (hmem : s.mem.within s.params) (v : Word) :
    (s.writeMemData v).mem.within s.params := by
  unfold State.writeMemData
  split
  · exact hmem
  split
  · next hrange => exact Memory.writeElem_within hmem (of_decide_eq_true hrange) v
  · exact hmem

theorem writeReg_within {s : State} (hmem : s.mem.within s.params) (r : Reg) (v : Word) :
    (s.writeReg r v).mem.within s.params := by
  cases r with
  | memData => exact writeMemData_within hmem v
  | cmd =>
    change (s.writeCmd v).mem.within s.params
    rcases writeCmd_cases s v with h | h <;> rw [h] <;> exact hmem
  | ctrl =>
    unfold State.writeReg
    dsimp only
    split
    · exact softReset_within hmem
    · exact hmem
  | _ => exact hmem

theorem busWrite_within {s : State} (hmem : s.mem.within s.params) (addr : BitVec 6) (v : Word) :
    (s.busWrite addr v).mem.within s.params := by
  unfold State.busWrite
  split
  · exact writeReg_within hmem _ v
  · exact hmem

/-- Settles O59, event by event: the engine's writes by the bounds of the index formulas, the host's by its port's range
check; a reset lists no byte. -/
theorem writesStayInsideTheSpaces : Obligations.WritesStayInsideTheSpaces := by
  intro s t hinv hmem hstep
  obtain ⟨-, hparams⟩ := everyStepKeepsTheInvariant s t hinv hstep
  rw [hparams]
  unfold step at hstep
  split at hstep
  · exact engineTurn_within hmem hstep
  · next rest _ => exact engineTurn_within (s := s.withEvents rest) hmem hstep
  · next addr v rest _ =>
    cases hstep
    exact busWrite_within (s := s.withEvents rest) hmem addr v
  · next addr rest _ =>
    cases hstep
    rw [State.busRead_eq]
    exact hmem
  · cases hstep
    exact Memory.unspecified_within s.params s.draws

end Sys2Proof.Machine
end

section
/-! The host's MEM port (20_memory.md R77 to R80): what an access of MEMDATA does, by BUSY and by range. -/

namespace Sys2Proof.Machine

/-! A MEMDATA access, case by case. -/

theorem readMemData_of_busy {s : State} (h : s.busyFlag = true) :
    s.readMemData = ((s.withRdata (Config.busyReadData s.draws)).violate).nextDraw := if_pos h

theorem writeMemData_of_busy {s : State} (h : s.busyFlag = true) (v : Word) : s.writeMemData v = s.violate := if_pos h

section
variable {s : State} {id : SpaceId} (hidle : s.busyFlag = false) (hsel : spaceOfSel s.memSel = id)
include hidle hsel

theorem readMemData_in_range (h : s.memAddr.toNat < capacity s.params id) :
    s.readMemData = (s.withRdata (s.mem.readElem id s.memAddr.toNat)).bumpAddr := by
  subst hsel
  simp [State.readMemData, hidle, State.portInRange, h]

theorem writeMemData_in_range (h : s.memAddr.toNat < capacity s.params id) (v : Word) :
    s.writeMemData v = (s.withMem (s.mem.writeElem id s.memAddr.toNat v)).bumpAddr := by
  subst hsel
  simp [State.writeMemData, hidle, State.portInRange, h]

theorem readMemData_out_of_range (h : capacity s.params id ≤ s.memAddr.toNat) :
    s.readMemData = (s.withRdata 0#32).violate := by
  subst hsel
  simp [State.readMemData, hidle, State.portInRange, Nat.not_lt.2 h]

theorem writeMemData_out_of_range (h : capacity s.params id ≤ s.memAddr.toNat) (v : Word) :
    s.writeMemData v = s.violate := by
  subst hsel
  simp [State.writeMemData, hidle, State.portInRange, Nat.not_lt.2 h]

end

theorem step_read_memData {s : State} {rest : List Event} (h : s.events = .read (regAddr .memData) :: rest) :
    step s = .next (s.withEvents rest).readMemData := by
  rw [step_read h, State.busRead, regAt_regAddr]
  rfl

theorem step_write_memData {s : State} {rest : List Event} {v : Word}
    (h : s.events = .write (regAddr .memData) v :: rest) : step s = .next ((s.withEvents rest).writeMemData v) := by
  rw [step_write h, State.busWrite, regAt_regAddr]
  rfl

/-! An element as a number (R72). -/

theorem Space.readBytes_toNat_lt (id : SpaceId) (sp : Space) (a n : Nat) :
    (sp.readBytes id a n).toNat < 2 ^ (8 * n) := by
  induction n generalizing a with
  | zero => exact Nat.zero_lt_one
  | succ n ih =>
    rw [Space.readBytes, BitVec.toNat_or]
    refine Nat.or_lt_two_pow ?_ ?_
    · calc ((sp.readByte id a).setWidth 32).toNat ≤ (sp.readByte id a).toNat := by
            rw [BitVec.toNat_setWidth]; exact Nat.mod_le _ _
        _ < 2 ^ 8 := (sp.readByte id a).isLt
        _ ≤ 2 ^ (8 * (n + 1)) := Nat.pow_le_pow_right (by decide) (by omega)
    · calc (sp.readBytes id (a + 1) n <<< 8).toNat ≤ (sp.readBytes id (a + 1) n).toNat * 2 ^ 8 := by
            rw [BitVec.toNat_shiftLeft, Nat.shiftLeft_eq]; exact Nat.mod_le _ _
        _ < 2 ^ (8 * n) * 2 ^ 8 := Nat.mul_lt_mul_of_pos_right (ih _) (by decide)
        _ = 2 ^ (8 * (n + 1)) := by rw [← Nat.pow_add, Nat.mul_succ]

theorem lowBytes_toNat (n : Nat) (v : Word) : (lowBytes n v).toNat = v.toNat % 2 ^ (8 * n) := by
  have hlt : v.toNat % 2 ^ (8 * n) < 2 ^ 32 := (Nat.mod_le _ _).trans_lt v.isLt
  rw [lowBytes, BitVec.toNat_setWidth, BitVec.toNat_setWidth, Nat.mod_eq_of_lt hlt]

/-- A byte of another element of the space reads as before. -/
theorem Memory.readByte_writeElem_other (m : Memory) (id : SpaceId) (i : Nat) (v : Word) {a : Nat}
    (h : a / elemBytes id ≠ i) : ((m.writeElem id i v).get id).readByte id a = (m.get id).readByte id a := by
  have hpos : 0 < elemBytes id := by cases id <;> decide
  rw [Memory.get_writeElem, if_pos rfl]
  refine Space.readByte_writeBytes_other _ _ _ _ _ _ ?_
  rcases Nat.lt_or_gt_of_ne h with hlt | hgt
  · exact .inl ((Nat.div_lt_iff_lt_mul hpos).1 hlt)
  · exact .inr (Nat.succ_mul i _ ▸ (Nat.le_div_iff_mul_le hpos).1 hgt)

/-! The statements' lists of the spaces (10_state.md R50, R77). -/

theorem portSpace_of_mem {p : Config.Params} {sel : BitVec 3} {id : SpaceId} {bytes cap : Nat}
    (h : (sel, id, bytes, cap) ∈
      [((0#3 : BitVec 3), SpaceId.dot, 1, 65536), (1#3, .errtab, 4, 1835008), (2#3, .pvlut, 1, 256),
       (3#3, .raster, 2, p.rasterMax), (4#3, .eb, 4, 128 * p.ebMaxW), (5#3, .print, 1, 16 * p.pbMaxPix),
       (6#3, .preview, 1, 16 * p.pbMaxPix), (7#3, .tally, 4, 4096)]) :
    spaceOfSel sel = id ∧ elemBytes id = bytes ∧ capacity p id = cap := by
  simp only [List.mem_cons, List.not_mem_nil, or_false, Prod.mk.injEq] at h
  rcases h with h | h | h | h | h | h | h | h <;>
    · obtain ⟨rfl, rfl, rfl, rfl⟩ := h
      exact ⟨rfl, rfl, rfl⟩

theorem portCapacity_of_mem {p : Config.Params} {sel : BitVec 3} {cap : Nat}
    (h : (sel, cap) ∈
      [((0#3 : BitVec 3), 65536), (1#3, 1835008), (2#3, 256), (3#3, p.rasterMax), (4#3, 128 * p.ebMaxW),
       (5#3, 16 * p.pbMaxPix), (6#3, 16 * p.pbMaxPix), (7#3, 4096)]) :
    capacity p (spaceOfSel sel) = cap := by
  simp only [List.mem_cons, List.not_mem_nil, or_false, Prod.mk.injEq] at h
  rcases h with h | h | h | h | h | h | h | h <;>
    · obtain ⟨rfl, rfl⟩ := h
      rfl

/-! The statements. -/

/-- Settles O47: the access in range, then the laws of an element written. -/
theorem memPortAccessInRangeIsPerformed : Obligations.MemPortAccessInRangeIsPerformed := by
  intro s rest sel id bytes cap hlist hidle hmemSel hrange
  obtain ⟨hid, rfl, rfl⟩ := portSpace_of_mem hlist
  have hsel : spaceOfSel s.memSel = id := hmemSel ▸ hid
  refine ⟨fun h => ⟨Space.readBytes_toNat_lt _ _ _ _, ?_⟩, fun v h => ⟨_, step_write_memData h, ?_⟩⟩
  · rw [step_read_memData h, readMemData_in_range (s := s.withEvents rest) hidle hsel hrange]
    rfl
  · rw [writeMemData_in_range (s := s.withEvents rest) hidle hsel hrange]
    refine ⟨rfl, ?_, fun j => Memory.readElem_writeElem_other _ _ _ _ _, fun jd hjd => ?_,
      fun a => Memory.readByte_writeElem_other _ _ _ _⟩
    · exact (congrArg _ (Memory.readElem_writeElem_same _ _ _ _)).trans (lowBytes_toNat _ v)
    · exact (Memory.get_writeElem _ _ _ _ _).trans (if_neg hjd)

/-- Settles O48. -/
theorem memPortAccessOutOfRangeIsIgnored : Obligations.MemPortAccessOutOfRangeIsIgnored := by
  intro s rest sel cap hlist hidle hmemSel hrange
  subst hmemSel
  obtain rfl := portCapacity_of_mem hlist
  refine ⟨fun h => ?_, fun v h => ?_⟩
  · rw [step_read_memData h, readMemData_out_of_range (s := s.withEvents rest) hidle rfl hrange]
    rfl
  · rw [step_write_memData h, writeMemData_out_of_range (s := s.withEvents rest) hidle rfl hrange]
    rfl

/-- Settles O49: MEMDATA answers to BUSY, MEMSEL and MEMADDR do not. -/
theorem memPortAccessWhileBusyIsIgnored : Obligations.MemPortAccessWhileBusyIsIgnored := by
  intro s rest hbusy
  refine ⟨fun h => ?_, fun v h => ?_, fun v => ?_, fun v => ?_⟩
  · rw [step_read_memData h, readMemData_of_busy (s := s.withEvents rest) hbusy]
    rfl
  · rw [step_write_memData h, writeMemData_of_busy (s := s.withEvents rest) hbusy]
    rfl
  · exact step_write_regAddr (r := .memSel) nofun nofun nofun
  · exact step_write_regAddr (r := .memAddr) nofun nofun nofun

end Sys2Proof.Machine
end

section
/-! The command encoding (30_encoding.md R100 to R104): the three ways the decoder goes, by opcode, and the opcode map
beside it. -/

namespace Sys2Proof.Machine

/-! The decoder by format (R100, R102). -/

/-- The commands of format N with their opcodes (R102). -/
def formatNCommands : List (BitVec 8 × Instr) :=
  [(0#8, .nop), (1#8, .init), (3#8, .band), (4#8, .endRun), (5#8, .clrerr)]

/-- The ways the decoder goes: a command of format N, format W, or a reserved opcode. -/
inductive DecodesAs (w : Word) : Except DecodeError Instr → Prop where
  | formatN {op : BitVec 8} {i : Instr} (hmem : (op, i) ∈ formatNCommands) (hop : opField w = op.toNat) :
      DecodesAs w (decodeN w i)
  | formatW (hop : opField w = 2) : DecodesAs w (decodeW w)
  | reserved (hop : 6 ≤ opField w) : DecodesAs w (.error .reservedOpcode)

theorem decodesAs_decode (w : Word) : DecodesAs w (decode w) := by
  unfold decode
  split
  · next hop => exact .formatN (op := 0#8) (by decide) hop
  split
  · next hop => exact .formatN (op := 1#8) (by decide) hop
  split
  · next hop => exact .formatW hop
  split
  · next hop => exact .formatN (op := 3#8) (by decide) hop
  split
  · next hop => exact .formatN (op := 4#8) (by decide) hop
  split
  · next hop => exact .formatN (op := 5#8) (by decide) hop
  · exact .reserved (by omega)

theorem decodeN_error_iff (w : Word) (i : Instr) : (∃ e, decodeN w i = .error e) ↔ w.extractLsb' 0 24 ≠ 0#24 := by
  unfold decodeN
  split <;> simp [*]

theorem decodeW_error_iff (w : Word) : (∃ e, decodeW w = .error e) ↔ w.extractLsb' 16 4 ≠ 0#4 := by
  unfold decodeW
  split <;> simp [*]

theorem decodeW_eq_ok {w : Word} {i : Instr} (h : decodeW w = .ok i) :
    w.extractLsb' 16 4 = 0#4 ∧ i = .row (chField w) (yField w) := by
  unfold decodeW at h
  split at h <;> cases h
  exact ⟨‹_›, rfl⟩

theorem formatN_opcode {op : BitVec 8} {i : Instr} (hmem : (op, i) ∈ formatNCommands) :
    op.toNat ∈ [0, 1, 3, 4, 5] :=
  (by decide : ∀ p ∈ formatNCommands, p.1.toNat ∈ [0, 1, 3, 4, 5]) _ hmem

/-- A command of format N is its opcode alone (R100). -/
theorem formatN_encode {op : BitVec 8} {i : Instr} (hmem : (op, i) ∈ formatNCommands) :
    i.wellFormed = true ∧ encode i = op ++ 0#24 :=
  (by decide : ∀ p ∈ formatNCommands, p.2.wellFormed = true ∧ encode p.2 = p.1 ++ 0#24) _ hmem

/-! The ROW word and its fields (R100, R101). -/

theorem opField_encode_row (ch y : Nat) : opField (encode (.row ch y)) = 2 := by
  simp [-Nat.reduceAdd, opField, encode, BitVec.extractLsb'_append_eq_of_le]

theorem zeroField_encode_row (ch y : Nat) : (encode (.row ch y)).extractLsb' 16 4 = 0#4 := by
  simp [-Nat.reduceAdd, encode, BitVec.extractLsb'_append_eq_of_le, BitVec.extractLsb'_append_eq_of_add_le]

theorem chField_encode_row (ch y : Nat) : chField (encode (.row ch y)) = ch % 2 ^ 4 := by
  simp [-Nat.reduceAdd, chField, encode, BitVec.extractLsb'_append_eq_of_le, BitVec.extractLsb'_append_eq_of_add_le]

theorem yField_encode_row (ch y : Nat) : yField (encode (.row ch y)) = y % 2 ^ 16 := by
  simp [-Nat.reduceAdd, yField, encode, BitVec.extractLsb'_append_eq_of_add_le]

/-- A word of format W decodes to the ROW of its fields. -/
theorem decode_row {w : Word} (hop : opField w = 2) (hzero : w.extractLsb' 16 4 = 0#4) :
    decode w = .ok (.row (chField w) (yField w)) := by
  simp [decode, decodeW, hop, hzero]

/-- A word is its four fields of format W. -/
theorem word_eq_formatW_fields (w : Word) :
    w.extractLsb' 24 8 ++ w.extractLsb' 20 4 ++ w.extractLsb' 16 4 ++ w.extractLsb' 0 16 = w := by
  rw [BitVec.extractLsb'_append_extractLsb'_eq_extractLsb' (by rfl),
    BitVec.extractLsb'_append_extractLsb'_eq_extractLsb' (by rfl),
    BitVec.extractLsb'_append_extractLsb'_eq_extractLsb' (by rfl)]
  exact BitVec.extractLsb'_eq_self

theorem encode_row_fields {w : Word} (hop : opField w = 2) (hzero : w.extractLsb' 16 4 = 0#4) :
    encode (.row (chField w) (yField w)) = w := by
  have hhigh : w.extractLsb' 24 8 = 2#8 := BitVec.eq_of_toNat_eq hop
  calc encode (.row (chField w) (yField w))
      = 2#8 ++ w.extractLsb' 20 4 ++ 0#4 ++ w.extractLsb' 0 16 := by
        rw [encode, chField, yField, BitVec.ofNat_toNat, BitVec.ofNat_toNat, BitVec.setWidth_eq, BitVec.setWidth_eq]
    _ = w := by rw [← hhigh, ← hzero, word_eq_formatW_fields]

theorem wellFormed_row_fields (w : Word) : (Instr.row (chField w) (yField w)).wellFormed = true := by
  have hch : chField w < 2 ^ 4 := (w.extractLsb' 20 4).isLt
  have hy : yField w < 2 ^ 16 := (w.extractLsb' 0 16).isLt
  simpa [Instr.wellFormed] using ⟨hch, hy⟩

/-- Settles O1: ROW by its fields, every other command by its one word. -/
theorem decodeOfEncodeIsTheCommand : Obligations.DecodeOfEncodeIsTheCommand := by
  intro i hwf
  cases i with
  | row ch y =>
    obtain ⟨hch, hy⟩ : ch < 2 ^ 4 ∧ y < 2 ^ 16 := by simpa [Instr.wellFormed] using hwf
    rw [decode_row (opField_encode_row ch y) (zeroField_encode_row ch y), chField_encode_row, yField_encode_row,
      Nat.mod_eq_of_lt hch, Nat.mod_eq_of_lt hy]
  | nop => rfl
  | init => rfl
  | band => rfl
  | endRun => rfl
  | clrerr => rfl

/-- Settles O2: a legal word is the encoding of its fields, in either format. -/
theorem encodeOfDecodeIsTheWord : Obligations.EncodeOfDecodeIsTheWord := by
  intro w i h
  have hform := decodesAs_decode w
  generalize decode w = d at h hform
  cases hform with
  | formatN hmem hop =>
    obtain ⟨hzero, rfl⟩ := decodeN_eq_ok h
    obtain ⟨hwf, hword⟩ := formatN_encode hmem
    exact ⟨hwf, hword.trans (word_eq_of_fields hop hzero).symm⟩
  | formatW hop =>
    obtain ⟨hzero, rfl⟩ := decodeW_eq_ok h
    exact ⟨wellFormed_row_fields w, encode_row_fields hop hzero⟩
  | reserved hop => cases h

/-! The opcode map (R102). -/

/-- The word of every well-formed command selects the one row of its mnemonic. -/
theorem matchingRows_encode (i : Instr) : Laws.MatchesTable.Statement i := by
  cases i with
  | nop => exact Laws.MatchesTable.nop
  | init => exact Laws.MatchesTable.init
  | row ch y => exact Laws.MatchesTable.row ch y
  | band => exact Laws.MatchesTable.band
  | endRun => exact Laws.MatchesTable.endRun
  | clrerr => exact Laws.MatchesTable.clrerr

theorem matchingRows_eq_nil_iff (w : Word) : matchingRows w = [] ↔ ∀ r ∈ opRows, w &&& r.mask ≠ r.pattern := by
  simp [matchingRows]

/-- A field that lies wholly under the mask reads the same in the masked word. -/
theorem extractLsb'_and_of_allOnes {w mask : Word} {start len : Nat}
    (hmask : mask.extractLsb' start len = BitVec.allOnes len) :
    (w &&& mask).extractLsb' start len = w.extractLsb' start len := by
  rw [BitVec.extractLsb'_and, hmask, BitVec.and_allOnes]

theorem eq_of_and_fullMask {w p : Word} (h : w &&& 0xFFFFFFFF#32 = p) : w = p := by
  rwa [show (0xFFFFFFFF#32 : Word) = BitVec.allOnes 32 from rfl, BitVec.and_allOnes] at h

/-- A word that selects a row is legal. -/
theorem decode_ok_of_selects {w : Word} {r : OpRow} (hr : r ∈ opRows) (h : w &&& r.mask = r.pattern) :
    ∃ i, decode w = .ok i := by
  simp only [opRows, List.mem_cons, List.not_mem_nil, or_false] at hr
  rcases hr with rfl | rfl | rfl | rfl | rfl | rfl
  · exact ⟨.nop, eq_of_and_fullMask h ▸ rfl⟩
  · exact ⟨.init, eq_of_and_fullMask h ▸ rfl⟩
  · have hop : opField w = 2 := by
      rw [opField, ← extractLsb'_and_of_allOnes (mask := 0xFF0F0000#32) rfl, h]
      rfl
    have hzero : w.extractLsb' 16 4 = 0#4 := by
      rw [← extractLsb'_and_of_allOnes (mask := 0xFF0F0000#32) rfl, h]
      rfl
    exact ⟨_, decode_row hop hzero⟩
  · exact ⟨.band, eq_of_and_fullMask h ▸ rfl⟩
  · exact ⟨.endRun, eq_of_and_fullMask h ▸ rfl⟩
  · exact ⟨.clrerr, eq_of_and_fullMask h ▸ rfl⟩

theorem matchingRows_of_decode_ok {w : Word} {i : Instr} (h : decode w = .ok i) : matchingRows w = [i.mnemonic] := by
  obtain ⟨hwf, rfl⟩ := encodeOfDecodeIsTheWord w i h
  exact matchingRows_encode i hwf

theorem matchingRows_of_decode_error {w : Word} {e : DecodeError} (h : decode w = .error e) : matchingRows w = [] :=
  (matchingRows_eq_nil_iff w).2 fun r hr hsel => by
    obtain ⟨i, hok⟩ := decode_ok_of_selects hr hsel
    simp [h] at hok

/-- Settles O3: a legal word is an encoding, and one that selects a row is legal. -/
theorem everyWordSelectsOneRowOrIsIllegal : Obligations.EveryWordSelectsOneRowOrIsIllegal := by
  intro w
  cases h : decode w with
  | ok i => exact .inl ⟨i, rfl, matchingRows_of_decode_ok h⟩
  | error e => exact .inr ⟨e, rfl, matchingRows_of_decode_error h⟩

/-! The illegal words (R104). -/

theorem decode_error_iff_fields (w : Word) :
    (∃ e, decode w = .error e) ↔
      6 ≤ opField w ∨ (opField w ∈ [0, 1, 3, 4, 5] ∧ w.extractLsb' 0 24 ≠ 0#24) ∨
        (opField w = 2 ∧ w.extractLsb' 16 4 ≠ 0#4) := by
  have hform := decodesAs_decode w
  generalize decode w = d at hform
  cases hform with
  | formatN hmem hop =>
    have hlisted : opField w ∈ [0, 1, 3, 4, 5] := hop ▸ formatN_opcode hmem
    obtain ⟨hlt, hne⟩ : opField w < 6 ∧ opField w ≠ 2 :=
      (by decide : ∀ n ∈ [0, 1, 3, 4, 5], n < 6 ∧ n ≠ 2) _ hlisted
    rw [decodeN_error_iff, and_iff_right hlisted]
    simp [hlt.not_ge, hne]
  | formatW hop => simp [decodeW_error_iff, hop]
  | reserved hop => simp [hop]

theorem decode_error_iff_matchingRows (w : Word) : (∃ e, decode w = .error e) ↔ matchingRows w = [] := by
  refine ⟨fun ⟨_, h⟩ => matchingRows_of_decode_error h, fun hnil => ?_⟩
  cases h : decode w with
  | ok i => simp [matchingRows_of_decode_ok h] at hnil
  | error e => exact ⟨e, rfl⟩

/-! The engine's turn, by itself or as an event (log 1). -/

theorem step_of_no_event {s : State} (h : s.events = []) : step s = engineTurn s := by
  simp only [step, h]

theorem step_engine {s : State} {rest : List Event} (h : s.events = .engine :: rest) :
    step s = engineTurn (s.withEvents rest) := by
  simp only [step, h]

/-- The engine's turn on an illegal word raises IllegalCommand. -/
theorem engineTurn_illegal {s : State} {r : Bool} {w : Word} {c : ConfigRegs} {e : DecodeError}
    (hop : s.op = .busy r w c) (h : decode w = .error e) : engineTurn s = .next (s.raise .illegalCommand) := by
  simp [engineTurn, hop, h]

/-- Settles O4: the fields, the opcode map, and the engine's turn in both forms. -/
theorem illegalWordsRaiseIllegalCommand : Obligations.IllegalWordsRaiseIllegalCommand := by
  refine ⟨decode_error_iff_fields, decode_error_iff_matchingRows, fun s r w c e hop h => ?_, rfl⟩
  refine ⟨fun hev => ?_, fun rest hev => ?_⟩
  · exact (step_of_no_event hev).trans (engineTurn_illegal hop h)
  · exact (step_engine hev).trans (engineTurn_illegal (s := s.withEvents rest) hop h)

/-- Settles O5: each word evaluated. -/
theorem specWordsDecode : Obligations.SpecWordsDecode := ⟨rfl, rfl, rfl, rfl, rfl, rfl, rfl⟩

end Sys2Proof.Machine
end

section
/-! The Kernel Catalog (40_catalog_and_run_control.md R130, R131), the checks of INIT (R134, R136, R142) and the values
INIT latches (R135, R137 to R140), each as a number. -/

namespace Sys2Proof.Machine

/-! The Kernel Catalog. -/

theorem kernelHeight_eq_none_iff (k : Nat) : kernelHeight k = none ↔ 17 ≤ k := List.getElem?_eq_none_iff

/-- Every height is one the error buffer holds (R5, R130). -/
theorem kernelHeight_bounds {k kh : Nat} (h : kernelHeight k = some kh) : 2 ≤ kh ∧ kh ≤ 4 :=
  (by decide : ∀ n ∈ kernelHeights, 2 ≤ n ∧ n ≤ 4) kh (List.mem_of_getElem? h)

/-- Settles O23: the table evaluated, its length, and `kernelSize` with its factors exchanged. -/
theorem catalogHoldsSeventeenHeights : Obligations.CatalogHoldsSeventeenHeights :=
  ⟨rfl, fun k => (kernelHeight_eq_none_iff k).2, fun kh => Nat.mul_comm 7 kh⟩

/-! The depths (R135). -/

theorem maxPixel_succ (w16 : Bool) : maxPixel w16 + 1 = if w16 then 65536 else 256 := by cases w16 <;> rfl

theorem maxPixel_lt (w16 : Bool) : maxPixel w16 < 65536 := by cases w16 <;> decide

theorem noiseScale_bounds (w16 : Bool) : 1 ≤ noiseScale w16 ∧ noiseScale w16 ≤ 257 := by cases w16 <;> decide

/-- RGB is 16-bit input and 16-bit samples, and 16-bit samples of 8-bit input are refused. -/
theorem w16_of_s16 {c : ConfigRegs} (hdepth : ¬ (c.in16 = false ∧ c.img16 = true)) (h : c.s16 = true) :
    c.w16 = true := by
  rcases Bool.or_eq_true_iff.1 h with himg | hrgb
  · have hin : c.in16 = true := by simpa [himg] using hdepth
    simp [ConfigRegs.w16, hin]
  · simp [ConfigRegs.w16, hrgb]

/-! The checks of INIT. -/

theorem tablesOk_iff (c : ConfigRegs) (kh : Nat) :
    tablesOk c kh = true ↔
      c.dotValid = true ∧ c.dotSize.toNat = (if c.in16 || c.rgb then 65536 else 256) ∧
        c.errValid = true ∧ c.errSize.toNat = (if c.in16 || c.rgb then 65536 else 256) * (7 * kh) := by
  simp only [tablesOk, maxPixel_succ, ConfigRegs.w16, kernelSize, Bool.and_eq_true, decide_eq_true_eq, and_assoc]

theorem sizesOk_iff (p : Config.Params) (c : ConfigRegs) :
    sizesOk p c = true ↔
      1 ≤ c.channels.toNat ∧ c.channels.toNat ≤ 16 ∧ 1 ≤ c.inw.toNat ∧ 1 ≤ c.inh.toNat ∧ 1 ≤ c.outw.toNat ∧
        1 ≤ c.outh.toNat ∧ c.outw.toNat ≤ p.ebMaxW ∧ c.outw.toNat * c.outh.toNat ≤ p.pbMaxPix ∧
        c.inw.toNat * c.inh.toNat * c.channels.toNat ≤ p.rasterMax := by
  simp only [sizesOk, Bool.and_eq_true, decide_eq_true_eq, and_assoc]
  rfl

section
variable {p : Config.Params} {c : ConfigRegs} {kh : Nat}

theorem initError_of_no_kernel (h : kernelHeight c.kernel.toNat = none) :
    initError p c = some .invalidKernelIndex := by
  simp only [initError, h]

theorem initError_of_depths (hkh : kernelHeight c.kernel.toNat = some kh) (h : c.in16 = false ∧ c.img16 = true) :
    initError p c = some .incompatibleBitDepth := by
  simp only [initError, hkh, if_pos h]

theorem initError_of_tables (hkh : kernelHeight c.kernel.toNat = some kh)
    (hdepth : ¬ (c.in16 = false ∧ c.img16 = true)) (h : ¬ tablesOk c kh = true) :
    initError p c = some .missingLookupTable := by
  simp [initError, hkh, hdepth, h]

theorem initError_of_sizes (hkh : kernelHeight c.kernel.toNat = some kh)
    (hdepth : ¬ (c.in16 = false ∧ c.img16 = true)) (htables : tablesOk c kh = true) (h : ¬ sizesOk p c = true) :
    initError p c = some .allocationError := by
  simp [initError, hkh, hdepth, htables, h]

theorem initError_eq_none_iff :
    initError p c = none ↔
      ∃ kh, kernelHeight c.kernel.toNat = some kh ∧ ¬ (c.in16 = false ∧ c.img16 = true) ∧ tablesOk c kh = true ∧
        sizesOk p c = true := by
  constructor
  · intro hnone
    cases hkh : kernelHeight c.kernel.toNat with
    | none => simp [initError_of_no_kernel hkh] at hnone
    | some kh =>
      by_cases hdepth : c.in16 = false ∧ c.img16 = true
      · simp [initError_of_depths hkh hdepth] at hnone
      by_cases htables : tablesOk c kh = true
      · by_cases hsizes : sizesOk p c = true
        · exact ⟨kh, rfl, hdepth, htables, hsizes⟩
        · simp [initError_of_sizes hkh hdepth htables hsizes] at hnone
      · simp [initError_of_tables hkh hdepth htables] at hnone
  · rintro ⟨kh, hkh, hdepth, htables, hsizes⟩
    simp [initError, hkh, hdepth, htables, hsizes]

end

/-! The effective hysteresis (R137) and the noise range (R138). -/

theorem normaliseHyst_of_legal {h : BitVec 16} (hlow : 0 ≤ h.toInt) (hhigh : h.toInt ≤ 1000) :
    normaliseHyst h = h.toNat := if_pos ⟨hlow, hhigh⟩

theorem normaliseHyst_of_illegal {h : BitVec 16} (hout : h.toInt < 0 ∨ 1000 < h.toInt) : normaliseHyst h = 150 :=
  if_neg (by omega)

theorem normaliseHyst_le (h : BitVec 16) : normaliseHyst h ≤ 1000 := by
  by_cases hlegal : 0 ≤ h.toInt ∧ h.toInt ≤ 1000
  · obtain ⟨hlow, hhigh⟩ := hlegal
    have hnat : h.toInt = h.toNat := BitVec.toInt_eq_toNat_of_lt (BitVec.toInt_pos_iff.1 hlow)
    rw [normaliseHyst_of_legal hlow hhigh]
    omega
  · rw [normaliseHyst_of_illegal (by omega)]
    decide

theorem noiseRange_bounds {h nscl : Nat} (hh : h ≤ 1000) (hlow : 1 ≤ nscl) (hhigh : nscl ≤ 257) :
    4 ≤ noiseRange h nscl ∧ noiseRange h nscl ≤ 7196 := by
  have hmin : 4000 * 1 ≤ (4000 + 24 * h) * nscl := Nat.mul_le_mul (by omega) hlow
  have hmax : (4000 + 24 * h) * nscl ≤ 28000 * 257 := Nat.mul_le_mul (by omega) hhigh
  unfold noiseRange
  omega

/-! The latched run (R140): no field is cut by its width. -/

theorem latchRun_kh {c : ConfigRegs} {kh : Nat} (h : kernelHeight c.kernel.toNat = some kh) :
    (latchRun c).kh.toNat = kh := by
  have := kernelHeight_bounds h
  simp only [latchRun, h, Option.getD_some, BitVec.toNat_ofNat]
  omega

theorem latchRun_ks {c : ConfigRegs} {kh : Nat} (h : kernelHeight c.kernel.toNat = some kh) :
    (latchRun c).ks.toNat = 7 * kh := by
  have := kernelHeight_bounds h
  simp only [latchRun, h, Option.getD_some, kernelSize, BitVec.toNat_ofNat]
  omega

theorem latchRun_m (c : ConfigRegs) : (latchRun c).m.toNat = maxPixel c.w16 := Nat.mod_eq_of_lt (maxPixel_lt c.w16)

theorem latchRun_nscl (c : ConfigRegs) : (latchRun c).nscl.toNat = noiseScale c.w16 :=
  Nat.mod_eq_of_lt (by have := noiseScale_bounds c.w16; omega)

theorem latchRun_h (c : ConfigRegs) : (latchRun c).h.toNat = normaliseHyst c.hyst :=
  Nat.mod_eq_of_lt (by have := normaliseHyst_le c.hyst; omega)

/-- `nr` of R138, from the latched hysteresis and scale. -/
theorem noiseRange_latchRun (c : ConfigRegs) :
    noiseRange (latchRun c).h.toNat (latchRun c).nscl.toNat = noiseRange (normaliseHyst c.hyst) (noiseScale c.w16) := by
  rw [latchRun_h, latchRun_nscl]

theorem noiseRange_latchRun_bounds (c : ConfigRegs) :
    4 ≤ noiseRange (latchRun c).h.toNat (latchRun c).nscl.toNat ∧
      noiseRange (latchRun c).h.toNat (latchRun c).nscl.toNat ≤ 7196 := by
  obtain ⟨hlow, hhigh⟩ := noiseScale_bounds c.w16
  rw [noiseRange_latchRun]
  exact noiseRange_bounds (normaliseHyst_le c.hyst) hlow hhigh

theorem latchRun_nrs (c : ConfigRegs) :
    (latchRun c).nrs.toNat = noiseRange (latchRun c).h.toNat (latchRun c).nscl.toNat + 1 := by
  have hbounds := noiseRange_latchRun_bounds c
  rw [noiseRange_latchRun] at hbounds ⊢
  exact Nat.mod_eq_of_lt (by omega)

theorem latchRun_nrf (c : ConfigRegs) :
    (latchRun c).nrf.toNat = noiseRange (latchRun c).h.toNat (latchRun c).nscl.toNat / 2 := by
  have hbounds := noiseRange_latchRun_bounds c
  rw [noiseRange_latchRun] at hbounds ⊢
  exact Nat.mod_eq_of_lt (by omega)

/-- INK[0..7] are the fields of INKORD0 (R31). -/
theorem latchRun_inkOf_low (c : ConfigRegs) {ch : Nat} (h : ch < 8) :
    (latchRun c).inkOf ch = (c.inkOrd0.extractLsb' (4 * ch) 4).toNat :=
  congrArg BitVec.toNat (BitVec.extractLsb'_append_eq_of_add_le (by omega))

/-- INK[8..15] are the fields of INKORD1 (R31). -/
theorem latchRun_inkOf_high (c : ConfigRegs) {ch : Nat} (h : 8 ≤ ch) :
    (latchRun c).inkOf ch = (c.inkOrd1.extractLsb' (4 * (ch - 8)) 4).toNat := by
  rw [Nat.mul_sub]
  exact congrArg BitVec.toNat (BitVec.extractLsb'_append_eq_of_le (by omega))

/-- Settles O20, field by field. -/
theorem initLatchesTheDerivedValues : Obligations.InitLatchesTheDerivedValues := by
  refine ⟨fun p c hnone => ?_, fun c => ?_⟩
  · obtain ⟨kh, hkh, hdepth, -, -⟩ := initError_eq_none_iff.1 hnone
    obtain ⟨hmin, hmax⟩ := noiseRange_latchRun_bounds c
    refine ⟨rfl, rfl, w16_of_s16 hdepth, latchRun_m c, latchRun_nscl c, ?_, ?_, fun hlow hhigh => ?_, fun hout => ?_,
      latchRun_nrs c, latchRun_nrf c, hmin, hmax⟩
    · rw [latchRun_kh hkh, hkh]
    · rw [latchRun_ks hkh, latchRun_kh hkh]
    · rw [latchRun_h, normaliseHyst_of_legal hlow hhigh]
    · rw [latchRun_h, normaliseHyst_of_illegal hout]
  · exact ⟨rfl, rfl, rfl, rfl, rfl, rfl, rfl, rfl, rfl, rfl, fun ch => latchRun_inkOf_low c,
      fun ch h _ => latchRun_inkOf_high c h, rfl, rfl, rfl, rfl, rfl⟩

/-! The steps (R139). -/

/-- A quotient is as narrow as what is divided. -/
theorem toNat_ofNat_div {w n : Nat} (h : n < 2 ^ w) (m : Nat) : (BitVec.ofNat w (n / m)).toNat = n / m := by
  rw [BitVec.toNat_ofNat, Nat.mod_eq_of_lt (Nat.lt_of_le_of_lt (Nat.div_le_self n m) h)]

theorem latchRun_xstep (c : ConfigRegs) : (latchRun c).xstep.toNat = c.inw.toNat * 65536 / c.outw.toNat :=
  toNat_ofNat_div (by have := c.inw.isLt; omega) _

theorem latchRun_ystep (c : ConfigRegs) : (latchRun c).ystep.toNat = c.inh.toNat * 65536 / c.outh.toNat :=
  toNat_ofNat_div (by have := c.inh.isLt; omega) _

/-- Position `i` of `m` outputs over `n` inputs: the step, cut down, moves it at most `i / m` of the way. -/
theorem gridBase_lt {i m n : Nat} (hi : i < m) (hn : 1 ≤ n) : gridBase i (n * 65536 / m) < n := by
  refine Nat.div_lt_of_lt_mul ?_
  calc i * (n * 65536 / m)
      ≤ i * (n * 65536) / m := Nat.mul_div_le_mul_div_assoc _ _ _
    _ < n * 65536 := Nat.div_lt_of_lt_mul (Nat.mul_lt_mul_of_pos_right hi (by omega))
    _ = 65536 * n := Nat.mul_comm _ _

/-- Settles O21: the steps are not cut by their widths, and the input has a row and a column (R142). -/
theorem latchedStepsStayInsideTheInput : Obligations.LatchedStepsStayInsideTheInput := by
  intro p c hnone
  obtain ⟨kh, -, -, -, hsizes⟩ := initError_eq_none_iff.1 hnone
  obtain ⟨-, -, hinw, hinh, -⟩ := (sizesOk_iff p c).1 hsizes
  refine ⟨latchRun_xstep c, latchRun_ystep c, fun x hx => ?_, fun y hy => ?_⟩
  · rw [latchRun_xstep]
    exact Nat.le_sub_one_of_lt (gridBase_lt hx hinw)
  · rw [latchRun_ystep]
    exact Nat.le_sub_one_of_lt (gridBase_lt hy hinh)

end Sys2Proof.Machine
end

section
/-! How NOP, INIT and END end once they are taken (40_catalog_and_run_control.md R134, R141, R145, R146). -/

namespace Sys2Proof.Machine

/-! What a taken command answers. -/

section
variable {s : State} {r : Bool} {c : ConfigRegs}

/-- A taken command is carried out by a BUSY engine that holds the READY bit and the configuration of its
acceptance. -/
theorem exec_of_takes (i : Instr) (h : s.takes r c) : ∃ w, exec i s = exec i (s.withOp (.busy r w c)) := by
  have hready := State.takes_readyFlag h
  rcases h with ⟨hop, rfl⟩ | ⟨w, hop⟩
  · exact ⟨encode i, by rw [exec_resting i hop, State.accept, hready]⟩
  · exact ⟨w, hop ▸ rfl⟩

theorem exec_nop_of_takes (h : s.takes r c) : exec .nop s = .next (s.complete r) := by
  obtain ⟨w, hbusy⟩ := exec_of_takes .nop h
  exact hbusy.trans rfl

theorem exec_endRun_of_takes_true (h : s.takes true c) : exec .endRun s = .next (s.discardRun.complete false) := by
  obtain ⟨w, hbusy⟩ := exec_of_takes .endRun h
  exact hbusy.trans rfl

theorem exec_endRun_of_takes_false (h : s.takes false c) : exec .endRun s = .next (s.raise .noActiveRun) := by
  obtain ⟨w, hbusy⟩ := exec_of_takes .endRun h
  exact hbusy.trans rfl

/-- A failed check raises its error (R134, 60_exceptions.md R236). -/
theorem exec_init_of_initError_some {e : ErrCode} (h : s.takes r c) (herr : initError s.params c = some e) :
    exec .init s = .next (s.raise e) := by
  obtain ⟨w, hbusy⟩ := exec_of_takes .init h
  have herr' : initError (s.withOp (.busy r w c)).params (s.withOp (.busy r w c)).acceptedCfg = some e := herr
  rw [hbusy, exec, execInit, issue_busy _ _ _ _ _ _ rfl]
  simp only [herr']
  rfl

/-- With its checks passed INIT latches the run from the configuration of its acceptance and clears EB and TALLY
(R140, R141). -/
theorem exec_init_of_initError_none (h : s.takes r c) (herr : initError s.params c = none) :
    exec .init s =
      .next (((s.withRun (latchRun c)).withMem ((s.mem.clearSpace .eb).clearSpace .tally)).complete true) := by
  obtain ⟨w, hbusy⟩ := exec_of_takes .init h
  have herr' : initError (s.withOp (.busy r w c)).params (s.withOp (.busy r w c)).acceptedCfg = none := herr
  rw [hbusy, exec, execInit, issue_busy _ _ _ _ _ _ rfl]
  simp only [herr']
  rfl

end

/-! The memory they leave. -/

/-- Clearing a space leaves the elements of every other (20_memory.md R70). -/
theorem Memory.readElem_clearSpace_other (m : Memory) {id jd : SpaceId} (h : jd ≠ id) (i : Nat) :
    (m.clearSpace id).readElem jd i = m.readElem jd i := by
  simp [Memory.readElem, Memory.clearSpace, h]

/-- A byte of an unspecified space is the free value of its address (log 6). -/
theorem Space.readByte_unspecified (n : Nat) (id : SpaceId) (a : Nat) :
    (Space.unspecified n).readByte id a = Config.freeByte n id a := rfl

theorem Memory.get_loseSpace_same (m : Memory) (id : SpaceId) (n : Nat) :
    (m.loseSpace id n).get id = Space.unspecified n := by
  simp [Memory.loseSpace]

/-! The statements. -/

/-- Settles O16: completion with READY as it was, and the violation in ERROR. -/
theorem nopSetsDoneAlone : Obligations.NopSetsDoneAlone :=
  ⟨fun _ _ _ h => exec_nop_of_takes h, fun _ _ hop => exec_error hop (by decide)⟩

/-- Settles O17: the three ways END ends. -/
theorem endDiscardsTheErrorBuffer : Obligations.EndDiscardsTheErrorBuffer := by
  refine ⟨fun s c h => ?_, fun s c h => exec_endRun_of_takes_false h, fun s e hop => exec_error hop (by decide)⟩
  have hexec := exec_endRun_of_takes_true h
  have hlost : (s.discardRun.complete false).mem.eb = Space.unspecified s.draws := s.mem.get_loseSpace_same .eb s.draws
  refine ⟨_, hexec, State.complete_eq _ _, fun a => ?_, fun id => (exec_commandMem hexec).get_of_endRun⟩
  rw [hlost, Space.readByte_unspecified]

/-- Settles O19: the statement's conditions are the four checks (R134). -/
theorem initStartsARun : Obligations.InitStartsARun := by
  intro s r c kh htakes hkh hdepth hdot hdotSize herrv herrSize hc1 hc16 hinw hinh houtw houth hcols hpix hraster
  have htables : tablesOk c kh = true := (tablesOk_iff c kh).2 ⟨hdot, hdotSize, herrv, herrSize⟩
  have hsizes : sizesOk s.params c = true :=
    (sizesOk_iff s.params c).2 ⟨hc1, hc16, hinw, hinh, houtw, houth, hcols, hpix, hraster⟩
  have hexec := exec_init_of_initError_none htakes (initError_eq_none_iff.2 ⟨kh, hkh, hdepth, htables, hsizes⟩)
  refine ⟨_, hexec, State.complete_eq _ _, fun i => ?_, fun i => ?_, fun id => (exec_commandMem hexec).get_of_init⟩
  · rw [State.complete_mem, State.withMem_mem, Memory.readElem_clearSpace_other _ (by decide),
      Memory.readElem_clearSpace]
  · rw [State.complete_mem, State.withMem_mem, Memory.readElem_clearSpace]

/-- Settles O22: each clause names the check that is the first to fail. -/
theorem initRaisesTheFirstFailingCheck : Obligations.InitRaisesTheFirstFailingCheck := by
  intro s r c htakes
  refine ⟨fun hk => ?_, fun kh hkh hin himg => ?_, fun kh hkh hdepth hfail => ?_, fun kh hkh hdepth htables hfail => ?_,
    rfl, rfl, rfl, rfl⟩
  · exact exec_init_of_initError_some htakes (initError_of_no_kernel ((kernelHeight_eq_none_iff _).2 hk))
  · exact exec_init_of_initError_some htakes (initError_of_depths hkh ⟨hin, himg⟩)
  · refine exec_init_of_initError_some htakes (initError_of_tables hkh hdepth fun htables => ?_)
    obtain ⟨hdot, hdotSize, herrv, herrSize⟩ := (tablesOk_iff c kh).1 htables
    simp [hdot, hdotSize, herrv, herrSize] at hfail
  · refine exec_init_of_initError_some htakes (initError_of_sizes hkh hdepth htables fun hsizes => ?_)
    obtain ⟨hc1, hc16, hinw, hinh, houtw, houth, hcols, hpix, hraster⟩ := (sizesOk_iff s.params c).1 hsizes
    omega

end Sys2Proof.Machine
end

section
/-! The run and the spaces (41_row_halftone.md R186): a latched run fits, so no index of a pixel leaves its space, no
command of a state with the invariant faults, and no script stops the machine (70_reset_and_hazards.md R279). -/

namespace Sys2Proof.Machine

/-! What it means to fit. -/

theorem Run.fits_iff (p : Config.Params) (r : Run) :
    r.fits p = true ↔
      1 ≤ r.kh.toNat ∧ r.kh.toNat ≤ 4 ∧ r.ks.toNat = 7 * r.kh.toNat ∧ 1 ≤ r.c.toNat ∧ r.c.toNat ≤ 16 ∧
        1 ≤ r.inw.toNat ∧ 1 ≤ r.inh.toNat ∧ r.outw.toNat ≤ p.ebMaxW ∧ r.outw.toNat * r.outh.toNat ≤ p.pbMaxPix ∧
        r.inw.toNat * r.inh.toNat * r.c.toNat ≤ p.rasterMax ∧
        gridBase (r.outw.toNat - 1) r.xstep.toNat < r.inw.toNat ∧
        gridBase (r.outh.toNat - 1) r.ystep.toNat < r.inh.toNat := by
  simp only [Run.fits, gridBase, Bool.and_eq_true, decide_eq_true_eq, and_assoc]

/-- The checks of INIT (R142) and the catalog (R130) are what fitting asks for. -/
theorem Run.latched.fits {p : Config.Params} {r : Run} (h : r.latched p) : r.fits p = true := by
  obtain ⟨c, hnone, rfl⟩ := h
  obtain ⟨kh, hkh, -, -, hsizes⟩ := initError_eq_none_iff.1 hnone
  obtain ⟨hc1, hc16, hinw, hinh, houtw, houth, hcols, hpix, hraster⟩ := (sizesOk_iff p c).1 hsizes
  obtain ⟨hkh2, hkh4⟩ := kernelHeight_bounds hkh
  refine (Run.fits_iff p _).2 ⟨?_, ?_, ?_, hc1, hc16, hinw, hinh, hcols, hpix, hraster, ?_, ?_⟩
  · rw [latchRun_kh hkh]; omega
  · rw [latchRun_kh hkh]; exact hkh4
  · rw [latchRun_ks hkh, latchRun_kh hkh]
  · rw [latchRun_xstep]
    exact gridBase_lt (Nat.sub_lt houtw Nat.one_pos) hinw
  · rw [latchRun_ystep]
    exact gridBase_lt (Nat.sub_lt houth Nat.one_pos) hinh

/-! The indices of a pixel. -/

/-- Both samples of one direction are inside the input when the last position is (R139, R165, R166). -/
theorem gridSample_lt {i m step n xi : Nat} (hlast : gridBase (m - 1) step < n) (hi : i < m)
    (hxi : xi = i * step / 65536 ∨ xi = min (i * step / 65536 + 1) (n - 1)) : xi < n := by
  have hmono : i * step / 65536 ≤ gridBase (m - 1) step :=
    Nat.div_le_div_right (Nat.mul_le_mul_right step (Nat.le_sub_one_of_lt hi))
  omega

theorem rasterIndex_lt {p : Config.Params} {r : Run} {xi yi ch : Nat} (hfits : r.fits p = true)
    (hxi : xi < r.inw.toNat) (hyi : yi < r.inh.toNat) (hch : ch < r.c.toNat) :
    rasterIndex r xi yi ch < p.rasterMax := by
  obtain ⟨-, -, -, -, -, -, -, -, -, hraster, -⟩ := (Run.fits_iff p r).1 hfits
  calc rasterIndex r xi yi ch < r.inh.toNat * r.inw.toNat * r.c.toNat := mul_add_lt_mul (mul_add_lt_mul hyi hxi) hch
    _ = r.inw.toNat * r.inh.toNat * r.c.toNat := by rw [Nat.mul_comm r.inh.toNat]
    _ ≤ p.rasterMax := hraster

/-- A table row has 7 slots for each kernel row, and there are 65536 intensities at most (R52, R135). -/
theorem errIndex_lt {p : Config.Params} {r : Run} {q kr slot : Nat} (hfits : r.fits p = true) (hq : q < 65536)
    (hkr : kr < r.kh.toNat) (hslot : slot < 7) : errIndex r q kr slot < 1835008 := by
  obtain ⟨-, hkh, hks, -⟩ := (Run.fits_iff p r).1 hfits
  rw [errIndex, Nat.add_assoc]
  calc q * r.ks.toNat + (kr * 7 + slot) < 65536 * r.ks.toNat := mul_add_lt_mul hq (by omega)
    _ ≤ 1835008 := by omega

/-- Settles O24: each index by the bound of its formula, once the latched run is known to fit. -/
theorem latchedRunFitsTheSpaces : Obligations.LatchedRunFitsTheSpaces := by
  intro p r hlatched
  have hfits := hlatched.fits
  obtain ⟨-, hkh, -, -, hc, -, -, hcols, -, -, hx, hy⟩ := (Run.fits_iff p r).1 hfits
  refine ⟨fun x y ch xi yi hxlt hylt hch hxi hyi => ?_, fun a q hq => ?_, fun b kr ch col hb hkr hch hcol => ⟨rfl, ?_⟩,
    fun x y ch hxlt hylt hch => ⟨rfl, ?_, rfl, previewIndex_lt hfits hxlt hylt hch⟩, fun ch dot => ⟨dot.isLt, rfl, ?_⟩,
    hfits⟩
  · have hxin := gridSample_lt hx hxlt hxi
    have hyin := gridSample_lt hy hylt hyi
    exact ⟨hxin, hyin, rfl, rasterIndex_lt hfits hxin hyin hch⟩
  · have hlt : q < 65536 := hq ▸ Nat.lt_of_le_of_lt (quant_le a r.m.toNat) r.m.isLt
    exact ⟨hlt, fun kr slot hkr hslot => ⟨rfl, errIndex_lt hfits hlt hkr hslot⟩⟩
  · exact ebIndex_lt hb (by omega) (by omega) (by omega)
  · exact printIndex_lt hfits (r.inkOf_lt ch) hxlt hylt
  · exact tallyIndex_lt (r.inkOf_lt ch) dot.isLt

/-! What ROW and BAND answer. -/

/-- The checks of ROW (R161), the first that applies. -/
theorem rowError_of_not_ready {s : State} (h : s.readyFlag = false) (ch y : Nat) :
    rowError s ch y = some .noActiveRun := if_pos h

section
variable {s : State} {ch y : Nat} (hready : s.readyFlag = true)
include hready

theorem rowError_of_outside (h : s.run.c.toNat ≤ ch ∨ s.run.outh.toNat ≤ y) :
    rowError s ch y = some .illegalCommand := by
  simp [rowError, hready, h]

theorem rowError_of_width (hch : ch < s.run.c.toNat) (hy : y < s.run.outh.toNat)
    (h : s.acceptedCfg.outw ≠ s.run.outw) : rowError s ch y = some .bufferBoundsExceeded := by
  simp [rowError, hready, hch, hy, h]

theorem rowError_eq_none (hch : ch < s.run.c.toNat) (hy : y < s.run.outh.toNat)
    (h : s.acceptedCfg.outw = s.run.outw) : rowError s ch y = none := by
  simp [rowError, hready, hch, hy, h]

end

/-- A taken ROW is checked and carried out by the BUSY engine. -/
theorem exec_row_of_takes {s : State} {r : Bool} {c : ConfigRegs} (h : s.takes r c) (ch y : Nat) :
    ∃ w, exec (.row ch y) s =
      checkedEffect (rowError (s.withOp (.busy r w c)) ch y) (rowEffect ch y) (s.withOp (.busy r w c)) := by
  obtain ⟨w, hbusy⟩ := exec_of_takes (.row ch y) h
  exact ⟨w, hbusy.trans (exec_row_of_busy rfl ch y)⟩

/-- Settles O25: the BUSY engine holds the READY bit and the configuration of the acceptance (D37). -/
theorem rowRaisesTheFirstFailingCheck : Obligations.RowRaisesTheFirstFailingCheck := by
  intro s ch y r c htakes
  obtain ⟨w, hexec⟩ := exec_row_of_takes htakes ch y
  refine ⟨?_, ?_, ?_, rfl, rfl, rfl⟩
  · rintro rfl
    rw [hexec, rowError_of_not_ready rfl]
    rfl
  · rintro rfl hout
    rw [hexec, rowError_of_outside (s := s.withOp (.busy true w c)) rfl hout]
    rfl
  · rintro rfl hch hy hwidth
    rw [hexec, rowError_of_width (s := s.withOp (.busy true w c)) rfl hch hy hwidth]
    rfl

/-! No step stops. -/

/-- ROW and BAND stop only on an active run that does not fit (log 13). -/
theorem checkedEffect_next {err : Option ErrCode} {effect : State → State} {s : State}
    (h : err = none → s.run.fits s.params = true) : ∃ t, checkedEffect err effect s = .next t := by
  cases err with
  | some e => exact ⟨_, rfl⟩
  | none => exact ⟨_, if_pos (h rfl)⟩

theorem readyFlag_of_rowError {s : State} {ch y : Nat} (h : rowError s ch y = none) : s.readyFlag = true := by
  by_contra hnot
  rw [rowError_of_not_ready (Bool.eq_false_of_not_eq_true hnot)] at h
  cases h

theorem readyFlag_of_bandError {s : State} (h : bandError s = none) : s.readyFlag = true := by
  by_contra hnot
  rw [bandError, if_pos (Bool.eq_false_of_not_eq_true hnot)] at h
  cases h

/-- Under the invariant READY means a latched run, and a latched run fits. -/
theorem State.Inv.fits {s : State} (h : s.Inv) (hready : s.readyFlag = true) : s.run.fits s.params = true :=
  (h.runLatched hready).fits

/-- A BUSY engine carries out any command. -/
theorem exec_next_of_busy {s : State} (h : s.Inv) {r : Bool} {w : Word} {c : ConfigRegs} (hop : s.op = .busy r w c)
    (i : Instr) : ∃ t, exec i s = .next t := by
  cases i with
  | nop =>
    rw [exec, execNop, issue_busy _ s _ r w c hop]
    exact ⟨_, rfl⟩
  | clrerr =>
    rw [exec, execClrerr, issue_busy _ s _ r w c hop]
    exact ⟨_, rfl⟩
  | init =>
    rw [exec, execInit, issue_busy _ s _ r w c hop]
    split <;> exact ⟨_, rfl⟩
  | endRun =>
    rw [exec, execEnd, issue_busy _ s _ r w c hop]
    split <;> exact ⟨_, rfl⟩
  | row ch y =>
    rw [exec_row_of_busy hop]
    exact checkedEffect_next fun herr => h.fits (readyFlag_of_rowError herr)
  | band =>
    rw [exec_band_of_busy hop]
    exact checkedEffect_next fun herr => h.fits (readyFlag_of_bandError herr)

theorem engineTurn_next {s : State} (h : s.Inv) : ∃ t, engineTurn s = .next t := by
  unfold engineTurn
  split
  · next hop =>
    split
    · exact exec_next_of_busy h hop _
    · exact ⟨_, rfl⟩
  · exact ⟨_, rfl⟩

/-- Settles O58: a host access and a reset always answer, and the engine's turn does under the invariant. -/
theorem noStepStopsUnderTheInvariant : Obligations.NoStepStopsUnderTheInvariant := by
  intro s hinv
  unfold step
  split
  · exact engineTurn_next hinv
  · exact engineTurn_next (hinv.withEvents _)
  all_goals exact ⟨_, rfl⟩

/-! Runs. -/

/-- What every step keeps of a run of an implementation with parameters `p`. -/
structure RunsOn (p : Config.Params) (s : State) : Prop where
  params : s.params = p
  inv : s.Inv
  within : s.mem.within p

theorem RunsOn.step {p : Config.Params} {s : State} (h : RunsOn p s) : ∃ t, step s = .next t ∧ RunsOn p t := by
  obtain ⟨rfl, hinv, hwithin⟩ := h
  obtain ⟨t, hstep⟩ := noStepStopsUnderTheInvariant s hinv
  obtain ⟨hinv', hparams⟩ := everyStepKeepsTheInvariant s t hinv hstep
  exact ⟨t, hstep, hparams, hinv', hparams ▸ writesStayInsideTheSpaces s t hinv hwithin hstep⟩

theorem RunsOn.run {p : Config.Params} {s : State} (h : RunsOn p s) (n : Nat) :
    ∃ t, Sys2Proof.core.run n s = .next t ∧ RunsOn p t := by
  induction n generalizing s with
  | zero => exact ⟨s, rfl, h⟩
  | succ n ih =>
    obtain ⟨u, hstep, hu⟩ := h.step
    obtain ⟨t, hrun, ht⟩ := ih hu
    have hcore : Sys2Proof.core.step s = .next u := hstep
    exact ⟨t, by simp only [Host.Core.run, hcore]; exact hrun, ht⟩

/-- Settles O60: at reset everything is kept, and every step keeps it. -/
theorem noScriptStopsTheMachine : Obligations.NoScriptStopsTheMachine := by
  intro p es n hok
  have hstart : RunsOn p (State.start p es) := ⟨rfl, inv_start hok es, Memory.unspecified_within p 0⟩
  obtain ⟨t, hrun, ht⟩ := hstart.run n
  exact ⟨t, hrun, ht.inv.memWf, ht.within⟩

end Sys2Proof.Machine
end

section
/-! A work unit is its setup and its pixels in scan order (41_row_halftone.md R162, R163), and what steps 1 to 4 of a
pixel leave in the working registers (R165 to R175). -/

namespace Sys2Proof.Machine

/-! Steps 5 and 6 write EB alone (R176, R178). -/

/-- An element is read from its own space. -/
theorem Memory.readElem_congr {m m' : Memory} {id : SpaceId} (h : m'.get id = m.get id) (i : Nat) :
    m'.readElem id i = m.readElem id i := by
  rw [Memory.readElem, Memory.readElem, h]

/-- `t` differs from `s` in EB alone. -/
structure EbChange (s t : State) : Prop where
  same : t = { s with mem := t.mem }
  get : ∀ id, id ≠ .eb → t.mem.get id = s.mem.get id

theorem EbChange.refl (s : State) : EbChange s s := ⟨rfl, fun _ _ => rfl⟩

theorem EbChange.trans {s t u : State} (h : EbChange s t) (k : EbChange t u) : EbChange s u := by
  refine ⟨?_, fun id hid => (k.get id hid).trans (h.get id hid)⟩
  have hs := h.same
  have ks := k.same
  rw [hs] at ks
  exact ks

theorem EbChange.task {s t : State} (h : EbChange s t) : t.task = s.task := by rw [h.same]
theorem EbChange.run {s t : State} (h : EbChange s t) : t.run = s.run := by rw [h.same]
theorem EbChange.params {s t : State} (h : EbChange s t) : t.params = s.params := by rw [h.same]

theorem EbChange.readElem {s t : State} (h : EbChange s t) {id : SpaceId} (hid : id ≠ .eb) (i : Nat) :
    t.mem.readElem id i = s.mem.readElem id i := Memory.readElem_congr (h.get id hid) i

theorem EbChange.ofCell (s : State) (b kr c col : Nat) (v : F32) : EbChange s (s.setEbCell b kr c col v) :=
  ⟨rfl, fun id hid => by simp [hid]⟩

theorem EbChange.foldl {α : Type} {f : State → α → State} (hf : ∀ s a, EbChange s (f s a)) (l : List α) (s : State) :
    EbChange s (l.foldl f s) := by
  induction l generalizing s with
  | nil => exact .refl s
  | cons a l ih => exact (hf s a).trans (ih _)

theorem diffuseSlot_eb (kr slot : Nat) (s : State) : EbChange s (diffuseSlot kr slot s) := by
  simp only [diffuseSlot]
  split
  · exact .ofCell s _ _ _ _ _
  · exact .refl s

theorem pixelDiffuse_eb (s : State) : EbChange s (pixelDiffuse s) :=
  .foldl (fun s kr => .foldl (fun s slot => diffuseSlot_eb kr slot s) _ s) _ s

theorem shiftRow_eb (kr : Nat) (s : State) : EbChange s (shiftRow kr s) := .ofCell s _ _ _ _ _

theorem pixelShift_eb (s : State) : EbChange s (pixelShift s) :=
  (EbChange.foldl (f := fun s kr => shiftRow kr s) (fun s kr => shiftRow_eb kr s) _ s).trans (.ofCell _ _ _ _ _ _)

/-! The setup and the pixels (R162, R163). -/

theorem reverseScan_eq_true {r : Run} {y : Nat} (hserp : r.serp = true) (hy : y % 2 = 1) : reverseScan r y = true := by
  simp [reverseScan, hserp, hy]

theorem reverseScan_eq_false {r : Run} {y : Nat} (h : r.serp = false ∨ y % 2 = 0) : reverseScan r y = false := by
  rcases h with h | h <;> simp [reverseScan, h]

theorem setupUnit_forward {s : State} {u : WorkUnit} (h : reverseScan s.run u.2 = false) :
    (setupUnit u s).task.step = 1 ∧ (setupUnit u s).task.x = 0 := by
  simp [setupUnit, h]

theorem setupUnit_reverse {s : State} {u : WorkUnit} (h : reverseScan s.run u.2 = true) :
    (setupUnit u s).task.step = -1 ∧ (setupUnit u s).task.x = (s.run.outw.toNat : Int) - 1 := by
  simp [setupUnit, h]

theorem pixels_eq_iterate (n : Nat) (s : State) : pixels n s = pixel^[n] s := by
  induction n generalizing s with
  | zero => rfl
  | succ n ih => exact ih (pixel s)

theorem pixels_succ (n : Nat) (s : State) : pixels (n + 1) s = pixel (pixels n s) := by
  rw [pixels_eq_iterate, pixels_eq_iterate, Function.iterate_succ_apply']

/-- `t` stands at the same work unit in the same direction as `s`, `n` columns on (R163). -/
structure ScanMove (n : Nat) (s t : State) : Prop where
  ch : t.task.ch = s.task.ch
  y : t.task.y = s.task.y
  b : t.task.b = s.task.b
  step : t.task.step = s.task.step
  x : t.task.x = s.task.x + n * s.task.step

theorem ScanMove.of_task_eq {s t : State} (h : t.task = s.task) : ScanMove 0 s t := by
  constructor <;> simp [h]

theorem ScanMove.refl (s : State) : ScanMove 0 s s := .of_task_eq rfl

theorem ScanMove.trans {n m : Nat} {s t u : State} (h : ScanMove n s t) (k : ScanMove m t u) :
    ScanMove (n + m) s u where
  ch := k.ch.trans h.ch
  y := k.y.trans h.y
  b := k.b.trans h.b
  step := k.step.trans h.step
  x := by rw [k.x, h.x, h.step]; push_cast; ring

/-- The working registers that hold values, and not the place in the scan, are free to change. -/
theorem ScanMove.withTask (s : State) (avg v8 q : Nat) (a : F32) (dot : Byte) :
    ScanMove 0 s (s.withTask { s.task with avg := avg, v8 := v8, a := a, q := q, dot := dot }) := by
  constructor <;> simp

theorem pixelResample_scan (s : State) : ScanMove 0 s (pixelResample s) := .withTask s _ _ _ _ _
theorem pixelAddError_scan (s : State) : ScanMove 0 s (pixelAddError s) := .withTask s _ _ _ _ _
theorem pixelQuantise_scan (s : State) : ScanMove 0 s (pixelQuantise s) := .withTask s _ _ _ _ _
theorem pixelDot_scan (s : State) : ScanMove 0 s (pixelDot s) := .withTask s _ _ _ _ _

theorem pixelNoise_scan (s : State) : ScanMove 0 s (pixelNoise s) := by
  unfold pixelNoise
  split
  · exact .withTask s _ _ _ _ _
  · exact .refl s

theorem pixelDiffuse_scan (s : State) : ScanMove 0 s (pixelDiffuse s) := .of_task_eq (pixelDiffuse_eb s).task
theorem pixelShift_scan (s : State) : ScanMove 0 s (pixelShift s) := .of_task_eq (pixelShift_eb s).task

theorem pixelEmit_scan (s : State) : ScanMove 0 s (pixelEmit s) := by
  constructor <;> simp [pixelEmit]

theorem pixelAdvance_scan (s : State) : ScanMove 1 s (pixelAdvance s) := by
  constructor <;> simp [pixelAdvance]

theorem pixel_scan (s : State) : ScanMove 1 s (pixel s) :=
  ((((((((pixelResample_scan s).trans (pixelAddError_scan _)).trans (pixelNoise_scan _)).trans
    (pixelQuantise_scan _)).trans (pixelDot_scan _)).trans (pixelDiffuse_scan _)).trans
    (pixelShift_scan _)).trans (pixelEmit_scan _)).trans (pixelAdvance_scan _)

theorem pixels_scan (n : Nat) (s : State) : ScanMove n s (pixels n s) := by
  induction n with
  | zero => exact .refl s
  | succ n ih => rw [pixels_succ]; exact ih.trans (pixel_scan _)

/-- Settles O27: the clauses are the definitions written out, but for the bound of `quant` and the column after `n`
pixels. -/
theorem workUnitIsItsSetupAndItsPixels : Obligations.WorkUnitIsItsSetupAndItsPixels := by
  refine ⟨fun s ch y => ⟨rfl, rfl, rfl, rfl, fun hserp hy => ?_, fun h => ?_, rfl, rfl⟩, fun s => rfl,
    fun s => ⟨rfl, quant_le _ _⟩, fun s => rfl, fun s => rfl, fun s u => ?_, fun s n => ?_⟩
  · exact setupUnit_reverse (reverseScan_eq_true hserp hy)
  · exact setupUnit_forward (reverseScan_eq_false h)
  · exact pixels_eq_iterate _ _
  · have hx := (pixels_scan n s).x
    rw [pixels_eq_iterate] at hx
    exact hx

/-! Step 1 (R165 to R169). -/

/-- A sum of two products under weights that sum to 256 is at most 256 times a bound of the factors. -/
theorem weighted_le {M a b w : Nat} (ha : a ≤ M) (hb : b ≤ M) (hw : w ≤ 256) : a * (256 - w) + b * w ≤ 256 * M := by
  calc a * (256 - w) + b * w
      ≤ M * (256 - w) + M * w := Nat.add_le_add (Nat.mul_le_mul_right _ ha) (Nat.mul_le_mul_right _ hb)
    _ = M * (256 - w + w) := (Nat.mul_add _ _ _).symm
    _ = 256 * M := by rw [Nat.sub_add_cancel hw, Nat.mul_comm]

/-- The four weights sum to 65536 (R169). -/
theorem bilinear_le {M s00 s10 s01 s11 wx wy : Nat} (h00 : s00 ≤ M) (h10 : s10 ≤ M) (h01 : s01 ≤ M) (h11 : s11 ≤ M)
    (hwx : wx ≤ 256) (hwy : wy ≤ 256) : bilinear s00 s10 s01 s11 wx wy ≤ 256 * (256 * M) :=
  weighted_le (weighted_le h00 h10 hwx) (weighted_le h01 h11 hwx) hwy

theorem bilinear_rounded_le {M s00 s10 s01 s11 wx wy : Nat} (h00 : s00 ≤ M) (h10 : s10 ≤ M) (h01 : s01 ≤ M)
    (h11 : s11 ≤ M) (hwx : wx < 256) (hwy : wy < 256) : (bilinear s00 s10 s01 s11 wx wy + 128) / 256 ≤ 256 * M := by
  have := bilinear_le h00 h10 h01 h11 hwx.le hwy.le
  omega

theorem gridWeight_lt (i step : Nat) : gridWeight i step < 256 := Nat.mod_lt _ (by decide)

/-- `S(xi, yi, ch)` (R167) as a number. -/
theorem fetchSample_eq (s : State) (xi yi ch : Nat) :
    fetchSample s xi yi ch =
      if s.run.s16 = true then (s.mem.readElem .raster (rasterIndex s.run xi yi ch)).toNat % 65536
      else if s.run.w16 = true then (s.mem.readElem .raster (rasterIndex s.run xi yi ch)).toNat % 256 * 257
      else (s.mem.readElem .raster (rasterIndex s.run xi yi ch)).toNat % 256 := by
  simp [fetchSample]

/-- No sample is above the greatest intensity of the depths (R135, R167). -/
theorem fetchSample_le {s : State} (hm : s.run.m.toNat = maxPixel s.run.w16)
    (hdepth : s.run.s16 = true → s.run.w16 = true) (xi yi ch : Nat) : fetchSample s xi yi ch ≤ s.run.m.toNat := by
  rw [fetchSample_eq, hm, maxPixel]
  split_ifs with hs hw hw
  · omega
  · exact absurd (hdepth hs) hw
  · omega
  · omega

/-- The clamp of R168 changes nothing under the run's depths (R169). -/
theorem resample_eq {s : State} (hm : s.run.m.toNat = maxPixel s.run.w16)
    (hdepth : s.run.s16 = true → s.run.w16 = true) (x y ch : Nat) :
    resample s x y ch =
      (bilinear (fetchSample s (gridBase x s.run.xstep.toNat) (gridBase y s.run.ystep.toNat) ch)
        (fetchSample s (gridNext x s.run.xstep.toNat s.run.inw.toNat) (gridBase y s.run.ystep.toNat) ch)
        (fetchSample s (gridBase x s.run.xstep.toNat) (gridNext y s.run.ystep.toNat s.run.inh.toNat) ch)
        (fetchSample s (gridNext x s.run.xstep.toNat s.run.inw.toNat) (gridNext y s.run.ystep.toNat s.run.inh.toNat) ch)
        (gridWeight x s.run.xstep.toNat) (gridWeight y s.run.ystep.toNat) + 128) / 256 :=
  have hle := fetchSample_le hm hdepth
  Nat.min_eq_left (bilinear_rounded_le (hle _ _ _) (hle _ _ _) (hle _ _ _) (hle _ _ _) (gridWeight_lt _ _)
    (gridWeight_lt _ _))

/-- Settles O28: the samples are `fetchSample` as numbers, and the rest is `resample` written out. -/
theorem resampleNeedsNoClamp : Obligations.ResampleNeedsNoClamp := by
  refine ⟨fun M s00 s10 s01 s11 wx wy => bilinear_rounded_le, fun s => ?_⟩
  intro py y0 wy y1 px x0 wx x1 S top bot v8
  have hsample : ∀ xi yi, S xi yi = fetchSample s xi yi s.task.ch := fun xi yi => (fetchSample_eq s xi yi _).symm
  have hsum : v8 = (bilinear (fetchSample s x0 y0 s.task.ch) (fetchSample s x1 y0 s.task.ch)
      (fetchSample s x0 y1 s.task.ch) (fetchSample s x1 y1 s.task.ch) wx wy + 128) / 256 := by
    simp only [v8, top, bot, hsample, bilinear]
  have hstep : pixelResample s = { s with task := { s.task with v8 := min v8 (256 * s.run.m.toNat) } } := by
    rw [hsum]; rfl
  refine ⟨hstep, fun hm hdepth => ?_⟩
  have hle := fetchSample_le (s := s) hm hdepth
  have hclamp : v8 ≤ 256 * s.run.m.toNat :=
    hsum ▸ bilinear_rounded_le (hle _ _ _) (hle _ _ _) (hle _ _ _) (hle _ _ _) (gridWeight_lt _ _) (gridWeight_lt _ _)
  exact ⟨fun xi yi => hsample xi yi ▸ hle xi yi _, hclamp, by rw [hstep, Nat.min_eq_left hclamp]⟩

/-- Settles O29: with both weights 0 the sum is 65536 times the first sample. -/
theorem resampleOnTheGridIsTheSample : Obligations.ResampleOnTheGridIsTheSample := by
  intro s x y ch hm hdepth hwx hwy
  rw [resample_eq hm hdepth, hwx, hwy, bilinear]
  omega

/-! Step 3 (R171 to R173). -/

theorem pixelNoise_inactive {s : State} (h : s.task.v8 = 0 ∨ s.run.h = 0#10) : pixelNoise s = s := by
  have hoff : s.noiseActive = false := by rcases h with h | h <;> simp [State.noiseActive, h]
  rw [pixelNoise, if_neg (by simp [hoff])]

theorem pixelNoise_active {s : State} (hv8 : 0 < s.task.v8) (hh : s.run.h ≠ 0#10) :
    pixelNoise s = s.withTask { s.task with
      avg := (s.task.avg + s.task.v8) / 2
      a := fadd32 s.task.a (f32Fix8 (noiseTerm (drawNoise s.run s.draws s.task.ch s.task.y s.task.x.toNat)
        ((((s.task.avg + s.task.v8) / 2 : Nat) : Int) - (s.task.v8 : Int)).natAbs s.run.m.toNat)) } :=
  if_pos (by simp [State.noiseActive, hv8, hh])

/-- A draw is of its set (00_scope.md R17, R172). -/
theorem drawNoise_mem {r : Run} (h : 0 < r.nrs.toNat) (n ch y x : Nat) :
    -(r.nrf.toNat : Int) ≤ drawNoise r n ch y x ∧ drawNoise r n ch y x < (r.nrs.toNat : Int) - r.nrf.toNat := by
  have := Nat.mod_lt (Config.noiseGen r.seed n ch y x) h
  unfold drawNoise
  omega

/-- Settles O30: the draw is the generator's answer brought into the set. -/
theorem stepThreeAddsADrawOfItsSet : Obligations.StepThreeAddsADrawOfItsSet := by
  refine ⟨fun s => pixelNoise_inactive, fun s hv8 hh hnrs => ?_⟩
  obtain ⟨hlow, hhigh⟩ := drawNoise_mem hnrs s.draws s.task.ch s.task.y s.task.x.toNat
  refine ⟨_, hlow, hhigh, ?_⟩
  rw [pixelNoise_active hv8 hh, noiseTerm, Int.natCast_natAbs]
  rfl

end Sys2Proof.Machine
end

section
/-! Steps 5 and 6 of a pixel (41_row_halftone.md R176 to R178), cell by cell of EB. -/

namespace Sys2Proof.Machine

/-! What a change of the memory leaves as it was. -/

/-- From `m` to `m'` every byte of every space `id` reads as before, but for the bytes of the elements in `E id`. -/
def Memory.ChangedIn (E : SpaceId → Set Nat) (m m' : Memory) : Prop :=
  ∀ id a, a / elemBytes id ∉ E id → (m'.get id).readByte id a = (m.get id).readByte id a

theorem Memory.ChangedIn.refl (E : SpaceId → Set Nat) (m : Memory) : ChangedIn E m m := fun _ _ _ => rfl

theorem Memory.ChangedIn.trans {E : SpaceId → Set Nat} {m m' m'' : Memory} (h : ChangedIn E m m')
    (k : ChangedIn E m' m'') : ChangedIn E m m'' := fun id a ha => (k id a ha).trans (h id a ha)

theorem Memory.writeElem_changedIn {E : SpaceId → Set Nat} (m : Memory) {id : SpaceId} {i : Nat} (hi : i ∈ E id)
    (v : Word) : ChangedIn E m (m.writeElem id i v) := by
  intro jd a ha
  by_cases hjd : jd = id
  · subst hjd
    exact m.readByte_writeElem_other jd i v (fun h => ha (h ▸ hi))
  · rw [Memory.get_writeElem, if_neg hjd]

/-- A fold of operations that change the memory in `E` alone changes it in `E` alone. -/
theorem Memory.ChangedIn.foldl {α : Type} {E : SpaceId → Set Nat} {f : Memory → α → Memory} {l : List α}
    (hf : ∀ a ∈ l, ∀ m, ChangedIn E m (f m a)) (m : Memory) : ChangedIn E m (l.foldl f m) := by
  induction l generalizing m with
  | nil => exact .refl E m
  | cons a l ih =>
    obtain ⟨hhead, htail⟩ := List.forall_mem_cons.1 hf
    exact (hhead m).trans (ih htail _)

theorem Space.readBytes_congr {id : SpaceId} {sp sp' : Space} {a n : Nat}
    (h : ∀ b, a ≤ b → b < a + n → sp'.readByte id b = sp.readByte id b) :
    sp'.readBytes id a n = sp.readBytes id a n := by
  induction n generalizing a with
  | zero => rfl
  | succ n ih =>
    rw [Space.readBytes, Space.readBytes, h a (Nat.le_refl a) (by omega),
      ih fun b hlow hhigh => h b (by omega) (by omega)]

/-- An element outside `E` reads as before. -/
theorem Memory.ChangedIn.readElem {E : SpaceId → Set Nat} {m m' : Memory} (h : ChangedIn E m m') {id : SpaceId}
    {i : Nat} (hi : i ∉ E id) : m'.readElem id i = m.readElem id i := by
  refine Space.readBytes_congr fun b hlow hhigh => h id b ?_
  have hdiv : b / elemBytes id = i := Nat.div_eq_of_lt_le hlow (Nat.succ_mul i _ ▸ hhigh)
  exact hdiv ▸ hi

/-! The cells of EB (10_state.md R55). -/

/-- Two cells of one bank and channel are one element only if they are one cell. -/
theorem ebIndex_inj {p : Config.Params} {b c kr kr' col col' : Nat} (hcol : col < p.ebMaxW) (hcol' : col' < p.ebMaxW)
    (h : ebIndex p b kr c col = ebIndex p b kr' c col') : kr = kr' ∧ col = col' := by
  unfold ebIndex at h
  have hmod := congrArg (· % p.ebMaxW) h
  simp only [Nat.mul_add_mod', Nat.mod_eq_of_lt hcol, Nat.mod_eq_of_lt hcol'] at hmod
  subst hmod
  have hrow := Nat.eq_of_mul_eq_mul_right (Nat.zero_lt_of_lt hcol) (Nat.add_right_cancel h)
  omega

theorem EbChange.atPixel {s t : State} (h : EbChange s t) (hs : s.AtPixel) : t.AtPixel := by
  rw [h.same]
  exact { hs with }

theorem State.AtPixel.column_lt {s : State} (h : s.AtPixel) : s.task.x.toNat < s.run.outw.toNat := by
  have hleft := h.left
  have hright := h.right
  omega

theorem State.AtPixel.outw_le {s : State} (h : s.AtPixel) : s.run.outw.toNat ≤ s.params.ebMaxW := by
  obtain ⟨-, -, -, houtw, -⟩ := Run.fits_bounds h.fits
  exact houtw

/-! Step 5: one slot (R176, R177). -/

/-- The target of a slot is a column of the row (R177). -/
def State.SlotInRow (s : State) (slot : Nat) : Prop :=
  0 ≤ slotTarget s.task.x s.task.step slot ∧ slotTarget s.task.x s.task.step slot < (s.run.outw.toNat : Int)

/-- The EB element a slot of a kernel row is added to (R176); a slot is given with its kernel row first. -/
def State.slotCell (s : State) (j : Nat × Nat) : Nat :=
  ebIndex s.params s.task.b j.1 s.task.ch (slotTarget s.task.x s.task.step j.2).toNat

theorem EbChange.slotInRow {s t : State} (h : EbChange s t) (slot : Nat) : t.SlotInRow slot ↔ s.SlotInRow slot := by
  rw [State.SlotInRow, State.SlotInRow, h.task, h.run]

theorem EbChange.slotCell {s t : State} (h : EbChange s t) (j : Nat × Nat) : t.slotCell j = s.slotCell j := by
  rw [State.slotCell, State.slotCell, h.task, h.params]

theorem EbChange.errEntry {s t : State} (h : EbChange s t) (q kr slot : Nat) :
    t.errEntry q kr slot = s.errEntry q kr slot := by
  rw [State.errEntry, State.errEntry, h.run, h.readElem (by decide)]

theorem diffuseSlot_mem_of_inRow {s : State} {j : Nat × Nat} (h : s.SlotInRow j.2) :
    (diffuseSlot j.1 j.2 s).mem = s.mem.writeElem .eb (s.slotCell j)
      (fadd32 (s.mem.readElem .eb (s.slotCell j)) (s.errEntry s.task.q j.1 j.2)) :=
  congrArg State.mem (if_pos h)

theorem diffuseSlot_of_not_inRow {s : State} {slot : Nat} (h : ¬ s.SlotInRow slot) (kr : Nat) :
    diffuseSlot kr slot s = s := if_neg h

theorem diffuseSlot_changedIn {E : SpaceId → Set Nat} {s : State} {j : Nat × Nat}
    (h : s.SlotInRow j.2 → s.slotCell j ∈ E .eb) : Memory.ChangedIn E s.mem (diffuseSlot j.1 j.2 s).mem := by
  by_cases hin : s.SlotInRow j.2
  · rw [diffuseSlot_mem_of_inRow hin]
    exact Memory.writeElem_changedIn _ (h hin) _
  · rw [diffuseSlot_of_not_inRow hin]
    exact .refl E _

/-- Different slots have different targets, in either direction of the scan. -/
theorem State.AtPixel.slotCell_inj {s : State} (h : s.AtPixel) {j k : Nat × Nat} (hj : s.SlotInRow j.2)
    (hk : s.SlotInRow k.2) (heq : s.slotCell j = s.slotCell k) : j = k := by
  have houtw := h.outw_le
  obtain ⟨hjlow, hjhigh⟩ := hj
  obtain ⟨hklow, hkhigh⟩ := hk
  obtain ⟨hrow, hcol⟩ := ebIndex_inj (by omega) (by omega) heq
  refine Prod.ext hrow ?_
  have htarget : slotTarget s.task.x s.task.step j.2 = slotTarget s.task.x s.task.step k.2 := by omega
  unfold slotTarget at htarget
  rcases h.step with hstep | hstep <;> rw [hstep] at htarget <;> omega

/-! Step 5: all slots. -/

/-- The slots of step 5 in order: the kernel rows, and the seven slots of each (R176). -/
def diffuseSlots (kh : Nat) : List (Nat × Nat) := List.range kh ×ˢ List.range 7

theorem mem_diffuseSlots {kh : Nat} {j : Nat × Nat} : j ∈ diffuseSlots kh ↔ j.1 < kh ∧ j.2 < 7 := by
  rw [diffuseSlots, List.mem_product, List.mem_range, List.mem_range]

theorem nodup_diffuseSlots (kh : Nat) : (diffuseSlots kh).Nodup := List.nodup_range.product List.nodup_range

theorem pixelDiffuse_eq_foldl (s : State) :
    pixelDiffuse s = (diffuseSlots s.run.kh.toNat).foldl (fun s j => diffuseSlot j.1 j.2 s) s := by
  have hrows : diffuseSlots s.run.kh.toNat =
      (List.range s.run.kh.toNat).flatMap fun kr => (List.range 7).map (kr, ·) := rfl
  rw [hrows, List.foldl_flatMap]
  simp only [List.foldl_map]
  rfl

theorem diffuseSlots_changedIn {E : SpaceId → Set Nat} {l : List (Nat × Nat)} {s : State}
    (h : ∀ j ∈ l, s.SlotInRow j.2 → s.slotCell j ∈ E .eb) :
    Memory.ChangedIn E s.mem (l.foldl (fun s j => diffuseSlot j.1 j.2 s) s).mem := by
  induction l generalizing s with
  | nil => exact .refl E _
  | cons j l ih =>
    obtain ⟨hhead, htail⟩ := List.forall_mem_cons.1 h
    have heb := diffuseSlot_eb j.1 j.2 s
    refine (diffuseSlot_changedIn hhead).trans (ih fun k hk hin => ?_)
    rw [heb.slotCell]
    exact htail k hk ((heb.slotInRow k.2).1 hin)

/-- Among different slots each target inside the row gets its entry once. -/
theorem diffuseSlots_target {l : List (Nat × Nat)} (hl : l.Nodup) {s : State} (hs : s.AtPixel) {j : Nat × Nat}
    (hj : j ∈ l) (hin : s.SlotInRow j.2) :
    (l.foldl (fun s j => diffuseSlot j.1 j.2 s) s).mem.readElem .eb (s.slotCell j) =
      fadd32 (s.mem.readElem .eb (s.slotCell j)) (s.errEntry s.task.q j.1 j.2) := by
  induction l generalizing s with
  | nil => cases hj
  | cons k l ih =>
    obtain ⟨hkl, hl⟩ := List.nodup_cons.1 hl
    have heb := diffuseSlot_eb k.1 k.2 s
    rw [List.foldl_cons]
    rcases List.mem_cons.1 hj with rfl | hjl
    · have hrest : Memory.ChangedIn (fun _ => {e | e ≠ s.slotCell j}) (diffuseSlot j.1 j.2 s).mem
          (l.foldl (fun s j => diffuseSlot j.1 j.2 s) (diffuseSlot j.1 j.2 s)).mem := by
        refine diffuseSlots_changedIn fun i hi hiin heq => hkl ?_
        rw [heb.slotCell] at heq
        exact hs.slotCell_inj ((heb.slotInRow i.2).1 hiin) hin heq ▸ hi
      rw [hrest.readElem (fun h => h rfl), diffuseSlot_mem_of_inRow hin, Memory.readElem_writeElem_word _ _ _ _ rfl]
    · have hfirst : Memory.ChangedIn (fun _ => {e | e ≠ s.slotCell j}) s.mem (diffuseSlot k.1 k.2 s).mem :=
        diffuseSlot_changedIn fun hkin heq => hkl (hs.slotCell_inj hkin hin heq ▸ hjl)
      have hrest := ih hl (heb.atPixel hs) hjl ((heb.slotInRow j.2).2 hin)
      rw [heb.slotCell, heb.errEntry, heb.task] at hrest
      rw [hrest, hfirst.readElem (fun h => h rfl)]

theorem pixelDiffuse_changedIn {E : SpaceId → Set Nat} {s : State}
    (h : ∀ j : Nat × Nat, j.1 < s.run.kh.toNat → j.2 < 7 → s.SlotInRow j.2 → s.slotCell j ∈ E .eb) :
    Memory.ChangedIn E s.mem (pixelDiffuse s).mem := by
  rw [pixelDiffuse_eq_foldl]
  refine diffuseSlots_changedIn fun j hj => ?_
  obtain ⟨hrow, hslot⟩ := mem_diffuseSlots.1 hj
  exact h j hrow hslot

/-- Settles O31: no two slots share a target, so each addition is to a cell as the step found it. -/
theorem diffusionAddsTheTableRow : Obligations.DiffusionAddsTheTableRow := by
  intro s hs
  refine ⟨fun kr slot target hkr hslot htarget hlow hhigh => ?_, fun a ha => ?_, (pixelDiffuse_eb s).get,
    (pixelDiffuse_eb s).same⟩
  · subst htarget
    rw [pixelDiffuse_eq_foldl]
    exact diffuseSlots_target (nodup_diffuseSlots _) hs (j := (kr, slot)) (mem_diffuseSlots.2 ⟨hkr, hslot⟩)
      ⟨hlow, hhigh⟩
  · have hkept : Memory.ChangedIn (fun _ => {e | e ≠ a / 4}) s.mem (pixelDiffuse s).mem := by
      refine pixelDiffuse_changedIn fun j hrow hslot hin heq => ?_
      exact ha j.1 j.2 _ hrow hslot rfl hin.1 hin.2 heq.symm
    exact hkept .eb a fun h => h rfl

/-! Step 6 (R178). -/

/-- The EB element of kernel row `kr` in the column of the pixel. -/
def State.columnCell (s : State) (kr : Nat) : Nat := ebIndex s.params s.task.b kr s.task.ch s.task.x.toNat

theorem EbChange.columnCell {s t : State} (h : EbChange s t) (kr : Nat) : t.columnCell kr = s.columnCell kr := by
  rw [State.columnCell, State.columnCell, h.task, h.params]

theorem State.AtPixel.columnCell_inj {s : State} (h : s.AtPixel) {kr kr' : Nat}
    (heq : s.columnCell kr = s.columnCell kr') : kr = kr' := by
  have hcol := Nat.lt_of_lt_of_le h.column_lt h.outw_le
  obtain ⟨hrow, -⟩ := ebIndex_inj hcol hcol heq
  exact hrow

/-- The first `n` moves of step 6. -/
def shiftRows (n : Nat) (s : State) : State := (List.range n).foldl (fun s kr => shiftRow kr s) s

theorem shiftRows_eb (n : Nat) (s : State) : EbChange s (shiftRows n s) := .foldl (fun s kr => shiftRow_eb kr s) _ s

theorem shiftRows_succ_mem (n : Nat) (s : State) :
    (shiftRows (n + 1) s).mem = (shiftRows n s).mem.writeElem .eb (s.columnCell n)
      ((shiftRows n s).mem.readElem .eb (s.columnCell (n + 1))) := by
  rw [← (shiftRows_eb n s).columnCell, ← (shiftRows_eb n s).columnCell, shiftRows, List.range_succ, List.foldl_append]
  rfl

/-- The kernel rows moved hold what the next one held; the others are as they were. -/
theorem shiftRows_cell {s : State} (hs : s.AtPixel) (n kr : Nat) :
    (shiftRows n s).mem.readElem .eb (s.columnCell kr) =
      s.mem.readElem .eb (s.columnCell (if kr < n then kr + 1 else kr)) := by
  induction n generalizing kr with
  | zero => rfl
  | succ n ih =>
    rw [shiftRows_succ_mem]
    by_cases hkr : kr = n
    · subst hkr
      rw [Memory.readElem_writeElem_word _ _ _ _ rfl, ih, if_neg (by omega), if_pos (by omega)]
    · rw [Memory.readElem_writeElem_other _ _ _ _ _ fun h => hkr (hs.columnCell_inj h), ih]
      simp only [show kr < n + 1 ↔ kr < n by omega]

theorem pixelShift_mem (s : State) :
    (pixelShift s).mem =
      (shiftRows (s.run.kh.toNat - 1) s).mem.writeElem .eb (s.columnCell (s.run.kh.toNat - 1)) 0#32 := by
  rw [State.columnCell, ← (shiftRows_eb (s.run.kh.toNat - 1) s).params]
  rfl

theorem shiftRows_changedIn {E : SpaceId → Set Nat} {s : State} {n : Nat} (h : ∀ kr < n, s.columnCell kr ∈ E .eb) :
    Memory.ChangedIn E s.mem (shiftRows n s).mem := by
  induction n with
  | zero => exact .refl E _
  | succ n ih =>
    rw [shiftRows_succ_mem]
    exact (ih fun kr hkr => h kr (by omega)).trans (Memory.writeElem_changedIn _ (h n (Nat.lt_succ_self n)) _)

theorem pixelShift_changedIn {E : SpaceId → Set Nat} {s : State} (hkh : 1 ≤ s.run.kh.toNat)
    (h : ∀ kr < s.run.kh.toNat, s.columnCell kr ∈ E .eb) : Memory.ChangedIn E s.mem (pixelShift s).mem := by
  rw [pixelShift_mem]
  exact (shiftRows_changedIn fun kr hkr => h kr (by omega)).trans
    (Memory.writeElem_changedIn _ (h _ (Nat.sub_lt hkh Nat.one_pos)) _)

/-- Settles O32: the moves in order, each from a cell that no earlier one has written. -/
theorem shiftMovesTheColumnUp : Obligations.ShiftMovesTheColumnUp := by
  intro s hs
  obtain ⟨hkh, -⟩ := Run.fits_bounds hs.fits
  refine ⟨fun kr hkr => ?_, ?_, fun a ha => ?_, (pixelShift_eb s).get, (pixelShift_eb s).same⟩
  · change (pixelShift s).mem.readElem .eb (s.columnCell kr) = s.mem.readElem .eb (s.columnCell (kr + 1))
    have hlast : s.columnCell kr ≠ s.columnCell (s.run.kh.toNat - 1) := fun h => by
      have := hs.columnCell_inj h
      omega
    rw [pixelShift_mem, Memory.readElem_writeElem_other _ _ _ _ _ hlast, shiftRows_cell hs, if_pos (by omega)]
  · change (pixelShift s).mem.readElem .eb (s.columnCell (s.run.kh.toNat - 1)) = 0#32
    rw [pixelShift_mem, Memory.readElem_writeElem_word _ _ _ _ rfl]
  · have hkept : Memory.ChangedIn (fun _ => {e | e ≠ a / 4}) s.mem (pixelShift s).mem :=
      pixelShift_changedIn hkh fun kr hkr heq => ha kr hkr heq.symm
    exact hkept .eb a fun h => h rfl

end Sys2Proof.Machine
end

section
/-! A work unit changes its own cells alone (41_row_halftone.md R163, R184), and ROW is a work unit and the merge of its
tally (R160). -/

namespace Sys2Proof.Machine

/-! A pixel, from the place it stands at. -/

theorem State.AtPixel.of_change {s t : State} (hs : s.AtPixel) (h : PipelineChange s t) (hscan : ScanMove 0 s t) :
    t.AtPixel where
  fits := by rw [h.run, h.params]; exact hs.fits
  chan := by rw [hscan.ch, h.run]; exact hs.chan
  row := by rw [hscan.y, h.run]; exact hs.row
  bank := by rw [hscan.b, hscan.y]; exact hs.bank
  step := by rw [hscan.step]; exact hs.step
  left := by rw [hscan.x]; simpa using hs.left
  right := by rw [hscan.x, h.run]; simpa using hs.right

/-- Steps 1 to 4 of a pixel: what decides its dot code. -/
def pixelDecide (s : State) : State := pixelDot (pixelQuantise (pixelNoise (pixelAddError (pixelResample s))))

theorem pixel_eq (s : State) : pixel s = pixelAdvance (pixelEmit (pixelShift (pixelDiffuse (pixelDecide s)))) := rfl

theorem pixelDecide_change (s : State) : PipelineChange s (pixelDecide s) :=
  ((((pixelResample_change s).trans (pixelAddError_change _)).trans (pixelNoise_change _)).trans
    (pixelQuantise_change _)).trans (pixelDot_change _)

theorem pixelDecide_scan (s : State) : ScanMove 0 s (pixelDecide s) :=
  ((((pixelResample_scan s).trans (pixelAddError_scan _)).trans (pixelNoise_scan _)).trans
    (pixelQuantise_scan _)).trans (pixelDot_scan _)

/-- `t` differs from `s` in working registers that hold values: nothing is written and nothing counted. -/
structure ValuesOnly (s t : State) : Prop where
  mem : t.mem = s.mem
  tally : t.task.tally = s.task.tally

theorem ValuesOnly.trans {s t u : State} (h : ValuesOnly s t) (k : ValuesOnly t u) : ValuesOnly s u :=
  ⟨k.mem.trans h.mem, k.tally.trans h.tally⟩

theorem ValuesOnly.withTask (s : State) (avg v8 q : Nat) (a : F32) (dot : Byte) :
    ValuesOnly s (s.withTask { s.task with avg := avg, v8 := v8, a := a, q := q, dot := dot }) := ⟨rfl, rfl⟩

theorem pixelResample_valuesOnly (s : State) : ValuesOnly s (pixelResample s) := .withTask s _ _ _ _ _
theorem pixelAddError_valuesOnly (s : State) : ValuesOnly s (pixelAddError s) := .withTask s _ _ _ _ _
theorem pixelQuantise_valuesOnly (s : State) : ValuesOnly s (pixelQuantise s) := .withTask s _ _ _ _ _
theorem pixelDot_valuesOnly (s : State) : ValuesOnly s (pixelDot s) := .withTask s _ _ _ _ _

theorem pixelNoise_valuesOnly (s : State) : ValuesOnly s (pixelNoise s) := by
  unfold pixelNoise
  split
  · exact .withTask s _ _ _ _ _
  · exact ⟨rfl, rfl⟩

theorem pixelDecide_valuesOnly (s : State) : ValuesOnly s (pixelDecide s) :=
  ((((pixelResample_valuesOnly s).trans (pixelAddError_valuesOnly _)).trans (pixelNoise_valuesOnly _)).trans
    (pixelQuantise_valuesOnly _)).trans (pixelDot_valuesOnly _)

/-- Steps 5 and 6 of a pixel change EB alone. -/
theorem pixelDiffuse_pixelShift_eb (s : State) : EbChange s (pixelShift (pixelDiffuse s)) :=
  (pixelDiffuse_eb s).trans (pixelShift_eb _)

/-- The column of EB a pixel stands at, from the place it stands at. -/
theorem State.columnCell_of_change {s t : State} (h : PipelineChange s t) (hscan : ScanMove 0 s t) (kr : Nat) :
    t.columnCell kr = s.columnCell kr := by
  have hx : t.task.x = s.task.x := by rw [hscan.x]; simp
  rw [State.columnCell, State.columnCell, h.params, hscan.b, hscan.ch, hx]

theorem pixelAdvance_mem (s : State) : (pixelAdvance s).mem = s.mem := rfl

theorem pixelAdvance_tally (s : State) : (pixelAdvance s).task.tally = s.task.tally := rfl

theorem pixelEmit_tally (s : State) :
    (pixelEmit s).task.tally = tallyBump (tallyIndex (s.run.inkOf s.task.ch) s.task.dot.toNat) s.task.tally := rfl

/-- A pixel counts its dot code on its ink, once (43_output_encoder.md R224). -/
theorem pixel_tally (s : State) :
    (pixel s).task.tally =
      tallyBump (tallyIndex (s.run.inkOf s.task.ch) (pixelDecide s).task.dot.toNat) s.task.tally := by
  have heb := pixelDiffuse_pixelShift_eb (pixelDecide s)
  rw [pixel_eq, pixelAdvance_tally, pixelEmit_tally, heb.run, heb.task, (pixelDecide_change s).run,
    (pixelDecide_scan s).ch, (pixelDecide_valuesOnly s).tally]

theorem pixelEmit_get {s : State} {id : SpaceId} (hprint : id ≠ .print) (hpreview : id ≠ .preview) :
    (pixelEmit s).mem.get id = s.mem.get id := by
  simp [pixelEmit, hprint, hpreview]

/-- A byte stored in a space of bytes reads back whole. -/
theorem lowBytes_byte (v : Byte) : lowBytes 1 (v.setWidth 32) = v.setWidth 32 := by
  simp [lowBytes]

theorem pixelEmit_readElem_print (s : State) (e : Nat) :
    (pixelEmit s).mem.readElem .print e =
      if e = printIndex s.params s.run (s.run.inkOf s.task.ch) s.task.x.toNat s.task.y then s.task.dot.setWidth 32
      else s.mem.readElem .print e := by
  change ((s.mem.writeElem .print _ _).writeElem .preview _ _).readElem .print e = _
  rw [Memory.readElem_writeElem_space _ _ _ _ _ _ (by decide)]
  split
  · next h =>
    rw [h, Memory.readElem_writeElem_same]
    exact lowBytes_byte _
  · next h => exact Memory.readElem_writeElem_other _ _ _ _ _ h

/-- A pixel prints its dot code at its column, on the ink of its channel, and leaves the rest of PRINT
(43_output_encoder.md R220). -/
theorem pixel_readElem_print (s : State) (e : Nat) :
    (pixel s).mem.readElem .print e =
      if e = printIndex s.params s.run (s.run.inkOf s.task.ch) s.task.x.toNat s.task.y then
        (pixelDecide s).task.dot.setWidth 32
      else s.mem.readElem .print e := by
  have heb := pixelDiffuse_pixelShift_eb (pixelDecide s)
  have hchange := pixelDecide_change s
  have hscan := pixelDecide_scan s
  have hx : (pixelDecide s).task.x = s.task.x := by rw [hscan.x]; simp
  rw [pixel_eq, pixelAdvance_mem, pixelEmit_readElem_print, heb.readElem (by decide), heb.params, heb.run, heb.task,
    hchange.params, hchange.run, hscan.ch, hscan.y, hx, (pixelDecide_valuesOnly s).mem]

/-! Where a work unit writes. -/

/-- The elements of a work unit (10_state.md R55 to R58): the EB cells of its bank and channel, the PRINT elements of
its ink and row, the PREVIEW elements of its row and channel, the TALLY counters of its ink. -/
def Run.unitElems (p : Config.Params) (r : Run) (u : WorkUnit) : SpaceId → Set Nat
  | .eb => {e | ∃ kr col, kr < r.kh.toNat ∧ col < r.outw.toNat ∧ e = ebIndex p (u.2 % 2) kr u.1 col}
  | .print => {e | ∃ x, x < r.outw.toNat ∧ e = printIndex p r (r.inkOf u.1) x u.2}
  | .preview => {e | ∃ x, x < r.outw.toNat ∧ e = previewIndex r x u.2 u.1}
  | .tally => {e | ∃ d, d < 256 ∧ e = tallyIndex (r.inkOf u.1) d}
  | _ => ∅

/-- The elements of the work unit the pixel belongs to. -/
def State.unitElems (s : State) : SpaceId → Set Nat := s.run.unitElems s.params (s.task.ch, s.task.y)

section
variable {s : State}

theorem State.unitElems_of_change {t : State} (h : PipelineChange s t) {n : Nat} (hscan : ScanMove n s t) :
    t.unitElems = s.unitElems := by
  rw [State.unitElems, State.unitElems, h.run, h.params, hscan.ch, hscan.y]

theorem State.AtPixel.cell_mem (hs : s.AtPixel) {kr col : Nat} (hkr : kr < s.run.kh.toNat)
    (hcol : col < s.run.outw.toNat) : ebIndex s.params s.task.b kr s.task.ch col ∈ s.unitElems .eb :=
  ⟨kr, col, hkr, hcol, by rw [hs.bank]⟩

theorem State.AtPixel.diffuse_changedIn (hs : s.AtPixel) : Memory.ChangedIn s.unitElems s.mem (pixelDiffuse s).mem := by
  refine pixelDiffuse_changedIn fun j hkr _ hin => hs.cell_mem hkr ?_
  obtain ⟨hlow, hhigh⟩ := hin
  omega

theorem State.AtPixel.shift_changedIn (hs : s.AtPixel) : Memory.ChangedIn s.unitElems s.mem (pixelShift s).mem := by
  obtain ⟨hkh, -⟩ := Run.fits_bounds hs.fits
  exact pixelShift_changedIn hkh fun kr hkr => hs.cell_mem hkr hs.column_lt

/-- The emit writes one element of PRINT and one of PREVIEW (43_output_encoder.md R220, R222). -/
theorem pixelEmit_changedIn {E : SpaceId → Set Nat}
    (hprint : printIndex s.params s.run (s.run.inkOf s.task.ch) s.task.x.toNat s.task.y ∈ E .print)
    (hpreview : previewIndex s.run s.task.x.toNat s.task.y s.task.ch ∈ E .preview) :
    Memory.ChangedIn E s.mem (pixelEmit s).mem :=
  (Memory.writeElem_changedIn s.mem hprint _).trans (Memory.writeElem_changedIn _ hpreview _)

theorem State.AtPixel.emit_changedIn (hs : s.AtPixel) : Memory.ChangedIn s.unitElems s.mem (pixelEmit s).mem :=
  pixelEmit_changedIn ⟨_, hs.column_lt, rfl⟩ ⟨_, hs.column_lt, rfl⟩

theorem State.AtPixel.pixel_changedIn (hs : s.AtPixel) : Memory.ChangedIn s.unitElems s.mem (pixel s).mem := by
  have hdecided := hs.of_change (pixelDecide_change s) (pixelDecide_scan s)
  have hdiffused := (pixelDiffuse_eb _).atPixel hdecided
  have hshifted := (pixelShift_eb _).atPixel hdiffused
  have hdiffuse := hdecided.diffuse_changedIn
  have hshift := hdiffused.shift_changedIn
  have hemit := hshifted.emit_changedIn
  rw [State.unitElems_of_change (pixelShift_change _) (pixelShift_scan _)] at hemit
  rw [State.unitElems_of_change (pixelDiffuse_change _) (pixelDiffuse_scan _)] at hemit hshift
  rw [State.unitElems_of_change (pixelDecide_change s) (pixelDecide_scan s)] at hemit hshift hdiffuse
  rw [(pixelDecide_valuesOnly s).mem] at hdiffuse
  rw [pixel_eq, pixelAdvance_mem]
  exact (hdiffuse.trans hshift).trans hemit

end

/-! The pixels of a work unit (R162, R163). -/

/-- The column of pixel `n` of a row in scan order (R162, R164). -/
def Run.scanColumn (r : Run) (y n : Nat) : Nat := if reverseScan r y then r.outw.toNat - 1 - n else n

theorem Run.scanColumn_lt {r : Run} {y n : Nat} (hn : n < r.outw.toNat) : r.scanColumn y n < r.outw.toNat := by
  unfold Run.scanColumn
  split <;> omega

theorem Run.scanColumn_inj {r : Run} {y n m : Nat} (hn : n < r.outw.toNat) (hm : m < r.outw.toNat)
    (h : r.scanColumn y n = r.scanColumn y m) : n = m := by
  unfold Run.scanColumn at h
  split at h <;> omega

/-- Every column of the row is scanned. -/
theorem Run.exists_scanColumn {r : Run} {x : Nat} (y : Nat) (hx : x < r.outw.toNat) :
    ∃ n < r.outw.toNat, r.scanColumn y n = x := by
  unfold Run.scanColumn
  split
  · exact ⟨r.outw.toNat - 1 - x, by omega, by omega⟩
  · exact ⟨x, hx, rfl⟩

/-- The state before pixel `n` of a work unit. -/
def unitPixel (u : WorkUnit) (n : Nat) (s : State) : State := pixels n (setupUnit u s)

theorem unitPixel_succ (u : WorkUnit) (n : Nat) (s : State) : unitPixel u (n + 1) s = pixel (unitPixel u n s) :=
  pixels_succ n _

theorem rowProcess_eq_unitPixel (u : WorkUnit) (s : State) : rowProcess u s = unitPixel u s.run.outw.toNat s := rfl

theorem unitPixel_change (u : WorkUnit) (n : Nat) (s : State) : PipelineChange s (unitPixel u n s) :=
  (setupUnit_change u s).trans (pixels_change n _)

theorem unitPixel_scan (u : WorkUnit) (n : Nat) (s : State) : ScanMove n (setupUnit u s) (unitPixel u n s) :=
  pixels_scan n _

theorem unitPixel_ch (u : WorkUnit) (n : Nat) (s : State) : (unitPixel u n s).task.ch = u.1 := (unitPixel_scan u n s).ch

theorem unitPixel_y (u : WorkUnit) (n : Nat) (s : State) : (unitPixel u n s).task.y = u.2 := (unitPixel_scan u n s).y

theorem unitPixel_b (u : WorkUnit) (n : Nat) (s : State) : (unitPixel u n s).task.b = u.2 % 2 :=
  (unitPixel_scan u n s).b

theorem setupUnit_step (u : WorkUnit) (s : State) :
    (setupUnit u s).task.step = 1 ∨ (setupUnit u s).task.step = -1 := by
  by_cases hrev : reverseScan s.run u.2 = true
  · exact .inr (setupUnit_reverse hrev).1
  · exact .inl (setupUnit_forward (Bool.eq_false_of_not_eq_true hrev)).1

theorem unitPixel_x {s : State} {n : Nat} (u : WorkUnit) (hn : n < s.run.outw.toNat) :
    (unitPixel u n s).task.x = (s.run.scanColumn u.2 n : Nat) := by
  rw [(unitPixel_scan u n s).x, Run.scanColumn]
  by_cases hrev : reverseScan s.run u.2 = true
  · obtain ⟨hstep, hx⟩ := setupUnit_reverse hrev
    rw [hstep, hx, if_pos hrev]
    omega
  · obtain ⟨hstep, hx⟩ := setupUnit_forward (Bool.eq_false_of_not_eq_true hrev)
    rw [hstep, hx, if_neg hrev]
    omega

section
variable {s : State} {u : WorkUnit} {n : Nat}

theorem unitPixel_atPixel (hfits : s.run.fits s.params = true) (hu : s.run.HasUnit u) (hn : n < s.run.outw.toNat) :
    (unitPixel u n s).AtPixel where
  fits := by rw [(unitPixel_change u n s).run, (unitPixel_change u n s).params]; exact hfits
  chan := by rw [unitPixel_ch, (unitPixel_change u n s).run]; exact hu.1
  row := by rw [unitPixel_y, (unitPixel_change u n s).run]; exact hu.2
  bank := by rw [unitPixel_b, unitPixel_y]
  step := by rw [(unitPixel_scan u n s).step]; exact setupUnit_step u s
  left := by rw [unitPixel_x u hn]; exact Int.natCast_nonneg _
  right := by
    rw [unitPixel_x u hn, (unitPixel_change u n s).run]
    exact Int.ofNat_lt.2 (Run.scanColumn_lt hn)

theorem unitPixel_columnCell (hn : n < s.run.outw.toNat) (kr : Nat) :
    (unitPixel u n s).columnCell kr = ebIndex s.params (u.2 % 2) kr u.1 (s.run.scanColumn u.2 n) := by
  rw [State.columnCell, (unitPixel_change u n s).params, unitPixel_b, unitPixel_ch, unitPixel_x u hn, Int.toNat_natCast]

theorem unitPixel_unitElems : (unitPixel u n s).unitElems = s.run.unitElems s.params u := by
  rw [State.unitElems, (unitPixel_change u n s).run, (unitPixel_change u n s).params, unitPixel_ch, unitPixel_y]

theorem unitPixel_changedIn (hfits : s.run.fits s.params = true) (hu : s.run.HasUnit u) (hn : n ≤ s.run.outw.toNat) :
    Memory.ChangedIn (s.run.unitElems s.params u) s.mem (unitPixel u n s).mem := by
  induction n with
  | zero => exact .refl _ _
  | succ n ih =>
    have hpixel := (unitPixel_atPixel hfits hu hn).pixel_changedIn
    rw [unitPixel_unitElems, ← unitPixel_succ] at hpixel
    exact (ih (Nat.le_of_succ_le hn)).trans hpixel

/-- A work unit changes its own elements alone (R184). -/
theorem rowProcess_changedIn (hfits : s.run.fits s.params = true) (hu : s.run.HasUnit u) :
    Memory.ChangedIn (s.run.unitElems s.params u) s.mem (rowProcess u s).mem :=
  unitPixel_changedIn hfits hu (Nat.le_refl _)

end

/-! The local tally (10_state.md R46). -/

/-- Every counter a local tally lists is in `K`. -/
def Tally.keysIn (K : Set Nat) (t : Tally) : Prop := ∀ kn ∈ t, kn.1 ∈ K

theorem tallyBump_keysIn {K : Set Nat} {k : Nat} {t : Tally} (hk : k ∈ K) (ht : t.keysIn K) :
    (tallyBump k t).keysIn K := by
  induction t with
  | nil => exact List.forall_mem_singleton.2 hk
  | cons jn t ih =>
    obtain ⟨hhead, htail⟩ := List.forall_mem_cons.1 ht
    unfold tallyBump
    split
    · exact List.forall_mem_cons.2 ⟨hhead, htail⟩
    · exact List.forall_mem_cons.2 ⟨hhead, ih htail⟩

/-- A work unit counts on its ink alone. -/
theorem unitPixel_tally_keysIn (u : WorkUnit) (n : Nat) (s : State)
    (h : s.task.tally.keysIn (s.run.unitElems s.params u .tally)) :
    (unitPixel u n s).task.tally.keysIn (s.run.unitElems s.params u .tally) := by
  induction n with
  | zero => exact h
  | succ n ih =>
    rw [unitPixel_succ, pixel_tally, unitPixel_ch, (unitPixel_change u n s).run]
    exact tallyBump_keysIn ⟨_, BitVec.isLt _, rfl⟩ ih

theorem mergeTally_changedIn {E : SpaceId → Set Nat} {t : Tally} (ht : t.keysIn (E .tally)) (m : Memory) :
    Memory.ChangedIn E m (mergeTally m t) :=
  .foldl (fun kn hkn m => Memory.writeElem_changedIn m (ht kn hkn) _) m

/-! What a work unit neither reads nor changes: the operating state, the waiting tallies, the task's list and tally. -/

/-- `s` with these replaced. -/
def State.withTaskList (s : State) (op : OpState) (ts : List Tally) (units : List WorkUnit) (tally : Tally) : State :=
  { s with op := op, finished := ts, task := { s.task with units := units, tally := tally } }

section
variable (op : OpState) (ts : List Tally) (units : List WorkUnit) (tally : Tally)

theorem pixelNoise_withTaskList (s : State) :
    pixelNoise (s.withTaskList op ts units tally) = (pixelNoise s).withTaskList op ts units tally := by
  simp only [pixelNoise, apply_ite (fun t : State => t.withTaskList op ts units tally)]
  rfl

theorem pixelDecide_withTaskList (s : State) :
    pixelDecide (s.withTaskList op ts units tally) = (pixelDecide s).withTaskList op ts units tally :=
  congrArg (fun t => pixelDot (pixelQuantise t))
    (pixelNoise_withTaskList op ts units tally (pixelAddError (pixelResample s)))

theorem diffuseSlot_withTaskList (kr slot : Nat) (s : State) :
    diffuseSlot kr slot (s.withTaskList op ts units tally) =
      (diffuseSlot kr slot s).withTaskList op ts units tally := by
  simp only [diffuseSlot, apply_ite (fun t : State => t.withTaskList op ts units tally)]
  rfl

theorem pixelDiffuse_withTaskList (s : State) :
    pixelDiffuse (s.withTaskList op ts units tally) = (pixelDiffuse s).withTaskList op ts units tally := by
  rw [pixelDiffuse_eq_foldl, pixelDiffuse_eq_foldl]
  exact List.foldl_hom (fun t : State => t.withTaskList op ts units tally)
    fun t j => diffuseSlot_withTaskList op ts units tally j.1 j.2 t

theorem pixelShift_withTaskList (s : State) :
    pixelShift (s.withTaskList op ts units tally) = (pixelShift s).withTaskList op ts units tally :=
  congrArg (fun t : State => t.setEbCell s.task.b (s.run.kh.toNat - 1) s.task.ch s.task.x.toNat 0#32)
    (List.foldl_hom (fun t : State => t.withTaskList op ts units tally) fun _ _ => rfl)

theorem pixelEmit_withTaskList (s : State) :
    pixelEmit (s.withTaskList op ts units tally) =
      (pixelEmit s).withTaskList op ts units
        (tallyBump (tallyIndex (s.run.inkOf s.task.ch) s.task.dot.toNat) tally) := rfl

theorem pixelAdvance_withTaskList (s : State) :
    pixelAdvance (s.withTaskList op ts units tally) = (pixelAdvance s).withTaskList op ts units tally := rfl

/-- Of a pixel only its count goes to the task's tally. -/
theorem pixel_withTaskList (s : State) :
    ∃ tally', pixel (s.withTaskList op ts units tally) = (pixel s).withTaskList op ts units tally' := by
  rw [pixel_eq, pixel_eq, pixelDecide_withTaskList, pixelDiffuse_withTaskList, pixelShift_withTaskList,
    pixelEmit_withTaskList, pixelAdvance_withTaskList]
  exact ⟨_, rfl⟩

theorem unitPixel_withTaskList (u : WorkUnit) (n : Nat) (s : State) :
    ∃ tally', unitPixel u n (s.withTaskList op ts units tally) = (unitPixel u n s).withTaskList op ts units tally' := by
  induction n with
  | zero => exact ⟨tally, rfl⟩
  | succ n ih =>
    obtain ⟨tally', heq⟩ := ih
    rw [unitPixel_succ, unitPixel_succ, heq]
    exact pixel_withTaskList op ts units tally' _

end

/-- A work unit leaves the same memory whatever the operating state, the waiting tallies and the working registers it
begins with: its setup gives a value to every one it reads (R162; log 16). -/
theorem rowProcess_mem_congr (u : WorkUnit) {s t : State}
    (h : t = { s with op := t.op, finished := t.finished, task := t.task }) :
    (rowProcess u t).mem = (rowProcess u s).mem := by
  obtain ⟨tally', heq⟩ := unitPixel_withTaskList t.op t.finished t.task.units t.task.tally u s.run.outw.toNat s
  have hsetup : setupUnit u t = setupUnit u (s.withTaskList t.op t.finished t.task.units t.task.tally) := by
    rw [h]
    rfl
  have hrun : t.run = s.run := by rw [h]
  have hmem := congrArg State.mem heq
  rw [rowProcess, hsetup, hrun]
  exact hmem

/-! ROW (R160). -/

/-- The one work unit of ROW as its task begins it: no unit after it, an empty tally. -/
def rowStart (s : State) : State := (s.withFinished []).withTask .idle

theorem runTask_single (u : WorkUnit) (s : State) :
    runTask [u] (s.withFinished []) =
      ((rowProcess u (rowStart s)).withFinished [(rowProcess u (rowStart s)).task.tally]).withTask .idle := by
  have hfinished : (rowProcess u (rowStart s)).finished = [] := (rowProcess_change u (rowStart s)).finished
  change ((rowProcess u (rowStart s)).withFinished ((rowProcess u (rowStart s)).finished ++ _)).withTask .idle = _
  rw [hfinished]
  rfl

/-- The join of one task (42_band_dispatch.md R207). -/
theorem mergeTallies_single (t : State) :
    (((t.withFinished [t.task.tally]).withTask .idle).mergeTallies).nextDraw =
      { t with mem := mergeTally t.mem t.task.tally, task := .idle, finished := [], draws := t.draws + 1 } := by
  rw [State.mergeTallies]
  rfl

theorem rowEffect_mem (ch y : Nat) (s : State) :
    (rowEffect ch y s).mem =
      mergeTally (rowProcess (ch, y) (rowStart s)).mem (rowProcess (ch, y) (rowStart s)).task.tally := by
  rw [rowEffect, runTask_single, mergeTallies_single]

/-- ROW changes the memory and the draw counter alone, and leaves no task (log 14, log 16). -/
theorem rowEffect_eq (ch y : Nat) (s : State) :
    rowEffect ch y s =
      { s with mem := (rowEffect ch y s).mem, task := .idle, finished := [], draws := s.draws + 1 } := by
  have hsame := (rowProcess_change (ch, y) (rowStart s)).same
  rw [rowEffect_mem, rowEffect, runTask_single, mergeTallies_single]
  generalize rowProcess (ch, y) (rowStart s) = t at hsame ⊢
  rw [hsame]
  rfl

/-- What ROW leaves in every space but TALLY is what the work unit leaves. -/
theorem rowEffect_get (ch y : Nat) (s : State) {id : SpaceId} (hid : id ≠ .tally) :
    (rowEffect ch y s).mem.get id = (rowProcess (ch, y) s).mem.get id := by
  rw [rowEffect_mem, mergeTally_get _ _ _ hid, rowProcess_mem_congr (ch, y) (s := s) (t := rowStart s) rfl]

theorem rowEffect_changedIn {s : State} {ch y : Nat} (hfits : s.run.fits s.params = true)
    (hu : s.run.HasUnit (ch, y)) :
    Memory.ChangedIn (s.run.unitElems s.params (ch, y)) s.mem (rowEffect ch y s).mem := by
  have hunit : Memory.ChangedIn (s.run.unitElems s.params (ch, y)) s.mem (rowProcess (ch, y) (rowStart s)).mem :=
    rowProcess_changedIn (s := rowStart s) hfits hu
  have hkeys : (rowProcess (ch, y) (rowStart s)).task.tally.keysIn (s.run.unitElems s.params (ch, y) .tally) :=
    unitPixel_tally_keysIn (ch, y) _ (rowStart s) fun _ h => nomatch h
  rw [rowEffect_mem]
  exact hunit.trans (mergeTally_changedIn hkeys _)

/-- A taken ROW whose checks pass completes with its effect. -/
theorem exec_row_completes {s : State} {ch y : Nat} {c : ConfigRegs} (htakes : s.takes true c)
    (hfits : s.run.fits s.params = true) (hu : s.run.HasUnit (ch, y)) (hwidth : c.outw = s.run.outw) :
    ∃ w, exec (.row ch y) s = .next ((rowEffect ch y (s.withOp (.busy true w c))).complete true) := by
  obtain ⟨w, hexec⟩ := exec_row_of_takes htakes ch y
  refine ⟨w, hexec.trans ?_⟩
  rw [rowError_eq_none (s := s.withOp (.busy true w c)) rfl hu.1 hu.2 hwidth]
  exact if_pos hfits

/-- Settles O26: the frame of each space is its part of `Run.unitElems`. -/
theorem rowTouchesItsOwnCellsAlone : Obligations.RowTouchesItsOwnCellsAlone := by
  intro s ch y c htakes hfits hch hy hwidth
  have hu : s.run.HasUnit (ch, y) := ⟨hch, hy⟩
  obtain ⟨w, hexec⟩ := exec_row_completes htakes hfits hu hwidth
  obtain ⟨hdot, herrtab, hpvlut, hraster⟩ := rowEffect_inputsKept ch y (s.withOp (.busy true w c))
  have hchanged : Memory.ChangedIn _ s.mem _ := rowEffect_changedIn (s := s.withOp (.busy true w c)) hfits hu
  refine ⟨_, hexec, ?_, hdot, herrtab, hpvlut, hraster, fun a ha => ?_, fun a ha => ?_, fun a ha => ?_, fun a ha => ?_,
    fun id hid => ?_⟩
  · rw [State.complete_eq, rowEffect_eq]
    rfl
  · refine hchanged .eb a ?_
    rintro ⟨kr, col, hkr, hcol, heq⟩
    exact ha kr col hkr hcol heq
  · refine hchanged .print a ?_
    rintro ⟨x, hx, heq⟩
    exact ha x hx ((Nat.div_one a).symm.trans heq)
  · refine hchanged .preview a ?_
    rintro ⟨x, hx, heq⟩
    exact ha x hx ((Nat.div_one a).symm.trans heq)
  · refine hchanged .tally a ?_
    rintro ⟨d, hd, heq⟩
    exact ha d hd heq
  · rw [State.complete_mem, rowEffect_get ch y _ hid, rowProcess_mem_congr (ch, y) (s := s) rfl]

end Sys2Proof.Machine
end

section
/-! A row of zeros (41_row_halftone.md R183): zero samples over zero errors and a zero table row quantise to 0 and leave
the errors of the columns still to come zero. -/

namespace Sys2Proof.Machine

/-! Zeros of binary32 (00_scope.md R10 to R13). -/

/-- One of the two patterns of value 0 (R10). -/
def F32IsZero (p : F32) : Prop := p = 0#32 ∨ p = 0x80000000#32

theorem F32IsZero.finite {p : F32} (h : F32IsZero p) : f32Finite p := by
  rcases h with rfl | rfl <;> (unfold f32Finite; decide)

theorem F32IsZero.units {p : F32} (h : F32IsZero p) : f32Units p = 0 := by
  rcases h with rfl | rfl <;> decide

theorem fadd32_isZero {a b : F32} (ha : F32IsZero a) (hb : F32IsZero b) : F32IsZero (fadd32 a b) := by
  rw [fadd32_zero_sum ha.finite hb.finite (by rw [ha.units, hb.units]; rfl)]
  split
  · exact .inr rfl
  · exact .inl rfl

theorem f32Fix8_zero : f32Fix8 0 = 0#32 := by
  rw [f32Fix8, Int.natAbs_zero, Nat.zero_mul]
  rfl

theorem quant_isZero {a : F32} (h : F32IsZero a) (M : Nat) : quant a M = 0 :=
  quant_of_units_nonpos h.finite h.units.le M

/-! Steps 1 to 4 over zeros. -/

theorem bilinear_zero (wx wy : Nat) : bilinear 0 0 0 0 wx wy = 0 := by simp [bilinear]

/-- The four samples of `(x, y, ch)` are 0 (R167, R168). -/
def State.SamplesZero (s : State) (x y ch : Nat) : Prop :=
  ∀ xi yi,
    (xi = x * s.run.xstep.toNat / 65536 ∨ xi = min (x * s.run.xstep.toNat / 65536 + 1) (s.run.inw.toNat - 1)) →
    (yi = y * s.run.ystep.toNat / 65536 ∨ yi = min (y * s.run.ystep.toNat / 65536 + 1) (s.run.inh.toNat - 1)) →
    fetchSample s xi yi ch = 0

theorem State.SamplesZero.of_change {s t : State} (h : PipelineChange s t) {x y ch : Nat} (hs : s.SamplesZero x y ch) :
    t.SamplesZero x y ch := by
  intro xi yi hxi hyi
  rw [h.run] at hxi hyi
  rw [fetchSample_eq, h.run, Memory.readElem_congr (id := .raster) h.raster, ← fetchSample_eq]
  exact hs xi yi hxi hyi

theorem resample_zero {s : State} {x y ch : Nat} (h : s.SamplesZero x y ch) : resample s x y ch = 0 := by
  have h00 := h _ _ (.inl rfl) (.inl rfl)
  have h10 := h _ _ (.inr rfl) (.inl rfl)
  have h01 := h _ _ (.inl rfl) (.inr rfl)
  have h11 := h _ _ (.inr rfl) (.inr rfl)
  simp only [resample, gridNext, gridBase, h00, h10, h01, h11, bilinear_zero]
  exact Nat.zero_min _

/-- What steps 1 to 4 decide over zeros: intensity 0 and the dot code of intensity 0 (R171, R174, R175). -/
theorem pixelDecide_zero {s : State} (hsamples : s.SamplesZero s.task.x.toNat s.task.y s.task.ch)
    (herror : F32IsZero (s.ebCell s.task.b 0 s.task.ch s.task.x.toNat)) :
    (pixelDecide s).task.q = 0 ∧ (pixelDecide s).task.dot = (s.mem.readElem .dot 0).setWidth 8 := by
  have hv8 : (pixelResample s).task.v8 = 0 := resample_zero hsamples
  have hnoise : pixelNoise (pixelAddError (pixelResample s)) = pixelAddError (pixelResample s) :=
    pixelNoise_inactive (.inl hv8)
  have ha : F32IsZero (pixelAddError (pixelResample s)).task.a := by
    change F32IsZero (fadd32 (f32Fix8 (pixelResample s).task.v8) (s.ebCell s.task.b 0 s.task.ch s.task.x.toNat))
    rw [hv8]
    exact fadd32_isZero (.inl f32Fix8_zero) herror
  have hq : (pixelQuantise (pixelAddError (pixelResample s))).task.q = 0 := quant_isZero ha _
  rw [pixelDecide, hnoise]
  refine ⟨hq, ?_⟩
  change ((s.mem.readElem .dot (pixelQuantise (pixelAddError (pixelResample s))).task.q).setWidth 8 : Byte) = _
  rw [hq]

/-! Steps 5 to 7 over zeros. -/

/-- Every EB element of `Z` holds a zero. -/
def State.ZeroCells (s : State) (Z : Set Nat) : Prop := ∀ e ∈ Z, F32IsZero (s.mem.readElem .eb e)

theorem State.ZeroCells.of_changedIn {s t : State} {Z : Set Nat} {E : SpaceId → Set Nat} (h : s.ZeroCells Z)
    (hkept : Memory.ChangedIn E s.mem t.mem) (hE : ∀ e ∈ Z, e ∉ E .eb) : t.ZeroCells Z := by
  intro e he
  rw [hkept.readElem (hE e he)]
  exact h e he

theorem State.ZeroCells.of_get {s t : State} {Z : Set Nat} (h : s.ZeroCells Z) (heb : t.mem.get .eb = s.mem.get .eb) :
    t.ZeroCells Z := by
  intro e he
  rw [Memory.readElem_congr heb]
  exact h e he

theorem State.ZeroCells.diffuseSlot {s : State} {Z : Set Nat} (h : s.ZeroCells Z) {j : Nat × Nat}
    (herr : F32IsZero (s.errEntry s.task.q j.1 j.2)) : (diffuseSlot j.1 j.2 s).ZeroCells Z := by
  intro e he
  by_cases hin : s.SlotInRow j.2
  · rw [diffuseSlot_mem_of_inRow hin]
    by_cases heq : e = s.slotCell j
    · rw [← heq, Memory.readElem_writeElem_word _ _ _ _ rfl]
      exact fadd32_isZero (h e he) herr
    · rw [Memory.readElem_writeElem_other _ _ _ _ _ heq]
      exact h e he
  · rw [diffuseSlot_of_not_inRow hin]
    exact h e he

/-- Zero entries leave zeros zero (R176). -/
theorem State.ZeroCells.diffuseSlots {s : State} {Z : Set Nat} {l : List (Nat × Nat)} (h : s.ZeroCells Z)
    (herr : ∀ j ∈ l, F32IsZero (s.errEntry s.task.q j.1 j.2)) :
    (l.foldl (fun s j => Machine.diffuseSlot j.1 j.2 s) s).ZeroCells Z := by
  induction l generalizing s with
  | nil => exact h
  | cons j l ih =>
    obtain ⟨hhead, htail⟩ := List.forall_mem_cons.1 herr
    have heb := diffuseSlot_eb j.1 j.2 s
    refine ih (h.diffuseSlot hhead) fun k hk => ?_
    rw [heb.errEntry, heb.task]
    exact htail k hk

/-- The table row of intensity 0 is its first `KS` entries, and they are zeros (R52, R183). -/
def State.ZeroTableRow (s : State) : Prop := ∀ j, j < s.run.ks.toNat → F32IsZero (s.mem.readElem .errtab j)

theorem State.ZeroTableRow.of_change {s t : State} (h : PipelineChange s t) (hs : s.ZeroTableRow) : t.ZeroTableRow := by
  intro j hj
  rw [h.run] at hj
  rw [Memory.readElem_congr (id := .errtab) h.errtab]
  exact hs j hj

theorem State.ZeroTableRow.errEntry {s : State} (h : s.ZeroTableRow) (hfits : s.run.fits s.params = true)
    {kr slot : Nat} (hkr : kr < s.run.kh.toNat) (hslot : slot < 7) : F32IsZero (s.errEntry 0 kr slot) := by
  obtain ⟨-, -, hks, -⟩ := (Run.fits_iff _ _).1 hfits
  exact h (errIndex s.run 0 kr slot) (by rw [errIndex]; omega)

theorem State.ZeroCells.pixelDiffuse {s : State} {Z : Set Nat} (h : s.ZeroCells Z) (htable : s.ZeroTableRow)
    (hfits : s.run.fits s.params = true) (hq : s.task.q = 0) : (pixelDiffuse s).ZeroCells Z := by
  rw [pixelDiffuse_eq_foldl]
  refine h.diffuseSlots fun j hj => ?_
  obtain ⟨hkr, hslot⟩ := mem_diffuseSlots.1 hj
  rw [hq]
  exact htable.errEntry hfits hkr hslot

/-- A pixel of intensity 0 keeps the zeros outside its column (R178). -/
theorem State.ZeroCells.pixel {s : State} {Z : Set Nat} (h : s.ZeroCells Z) (hs : s.AtPixel) (htable : s.ZeroTableRow)
    (hq : (pixelDecide s).task.q = 0) (hcolumn : ∀ kr < s.run.kh.toNat, s.columnCell kr ∉ Z) :
    (pixel s).ZeroCells Z := by
  have hchange := pixelDecide_change s
  have hat := hs.of_change hchange (pixelDecide_scan s)
  have hdecided : (pixelDecide s).ZeroCells Z := h.of_get (by rw [(pixelDecide_valuesOnly s).mem])
  have hdiffused := hdecided.pixelDiffuse (htable.of_change hchange) hat.fits hq
  have heb := pixelDiffuse_eb (pixelDecide s)
  obtain ⟨hkh, -⟩ := Run.fits_bounds hs.fits
  have hshift : Memory.ChangedIn (fun _ => Zᶜ) (Machine.pixelDiffuse (pixelDecide s)).mem
      (pixelShift (Machine.pixelDiffuse (pixelDecide s))).mem := by
    refine pixelShift_changedIn ?_ fun kr hkr => ?_
    · rw [heb.run, hchange.run]
      exact hkh
    · rw [heb.run, hchange.run] at hkr
      rw [heb.columnCell, State.columnCell_of_change hchange (pixelDecide_scan s)]
      exact hcolumn kr hkr
  have hshifted := hdiffused.of_changedIn hshift fun e he hnot => hnot he
  rw [pixel_eq]
  refine hshifted.of_get ?_
  rw [pixelAdvance_mem, pixelEmit_get (by decide) (by decide)]

/-! The pixels of the row. -/

/-- The cells of kernel row 0 that the pixels from `n` on will read (R170). -/
def Run.cellsAhead (p : Config.Params) (r : Run) (u : WorkUnit) (n : Nat) : Set Nat :=
  {e | ∃ m, n ≤ m ∧ m < r.outw.toNat ∧ e = ebIndex p (u.2 % 2) 0 u.1 (r.scanColumn u.2 m)}

section
variable {s : State} {u : WorkUnit} {n : Nat}

/-- The column of a pixel is not ahead of it. -/
theorem unitPixel_columnCell_not_ahead (hfits : s.run.fits s.params = true) (hn : n < s.run.outw.toNat) (kr : Nat) :
    (unitPixel u n s).columnCell kr ∉ s.run.cellsAhead s.params u (n + 1) := by
  obtain ⟨-, -, -, houtw, -⟩ := Run.fits_bounds hfits
  rintro ⟨m, hnm, hm, heq⟩
  rw [unitPixel_columnCell hn] at heq
  have hcol := Nat.lt_of_lt_of_le (Run.scanColumn_lt (y := u.2) hn) houtw
  have hcol' := Nat.lt_of_lt_of_le (Run.scanColumn_lt (y := u.2) hm) houtw
  obtain ⟨-, hsame⟩ := ebIndex_inj hcol hcol' heq
  have := Run.scanColumn_inj hn hm hsame
  omega

/-- A byte element is its low byte, zero-extended (20_memory.md R72). -/
theorem Memory.setWidth_readElem_byte (m : Memory) {id : SpaceId} (i : Nat) (h : elemBytes id = 1) :
    (((m.readElem id i).setWidth 8 : Byte).setWidth 32 : Word) = m.readElem id i := by
  have hlt : (m.readElem id i).toNat < 2 ^ (8 * elemBytes id) := Space.readBytes_toNat_lt _ _ _ _
  rw [h] at hlt
  apply BitVec.eq_of_toNat_eq
  rw [BitVec.toNat_setWidth, BitVec.toNat_setWidth]
  omega

/-- The premises of R183 for one work unit. -/
structure ZeroUnit (s : State) (u : WorkUnit) : Prop where
  fits : s.run.fits s.params = true
  unit : s.run.HasUnit u
  samples : ∀ x, x < s.run.outw.toNat → s.SamplesZero x u.2 u.1
  cells : s.ZeroCells (s.run.cellsAhead s.params u 0)
  table : s.ZeroTableRow

theorem ZeroUnit.decide (h : ZeroUnit s u) (hn : n < s.run.outw.toNat)
    (hcells : (unitPixel u n s).ZeroCells (s.run.cellsAhead s.params u n)) :
    (pixelDecide (unitPixel u n s)).task.q = 0 ∧
      (pixelDecide (unitPixel u n s)).task.dot = (s.mem.readElem .dot 0).setWidth 8 := by
  have hchange := unitPixel_change u n s
  rw [← Memory.readElem_congr (id := .dot) hchange.dot]
  refine pixelDecide_zero ?_ (hcells _ ⟨n, Nat.le_refl n, hn, unitPixel_columnCell hn 0⟩)
  rw [unitPixel_ch, unitPixel_y, unitPixel_x u hn]
  exact (h.samples _ (Run.scanColumn_lt hn)).of_change hchange

theorem ZeroUnit.cellsAhead (h : ZeroUnit s u) (hn : n ≤ s.run.outw.toNat) :
    (unitPixel u n s).ZeroCells (s.run.cellsAhead s.params u n) := by
  induction n with
  | zero => exact h.cells
  | succ n ih =>
    have hcells := ih (Nat.le_of_succ_le hn)
    obtain ⟨hq, -⟩ := h.decide hn hcells
    have hahead : (unitPixel u n s).ZeroCells (s.run.cellsAhead s.params u (n + 1)) := by
      rintro e ⟨m, hnm, hm⟩
      exact hcells e ⟨m, Nat.le_of_succ_le hnm, hm⟩
    rw [unitPixel_succ]
    exact hahead.pixel (unitPixel_atPixel h.fits h.unit hn) (h.table.of_change (unitPixel_change u n s)) hq
      fun kr _ => unitPixel_columnCell_not_ahead h.fits hn kr

/-- Every column scanned so far shows the dot code of intensity 0. -/
theorem ZeroUnit.printed (h : ZeroUnit s u) (hn : n ≤ s.run.outw.toNat) {m : Nat} (hm : m < n) :
    (unitPixel u n s).mem.readElem .print
        (printIndex s.params s.run (s.run.inkOf u.1) (s.run.scanColumn u.2 m) u.2) =
      s.mem.readElem .dot 0 := by
  induction n with
  | zero => cases hm
  | succ n ih =>
    obtain ⟨-, hdot⟩ := h.decide hn (h.cellsAhead (Nat.le_of_succ_le hn))
    rw [unitPixel_succ, pixel_readElem_print, hdot, Memory.setWidth_readElem_byte _ _ rfl]
    split
    · rfl
    · next hne =>
      refine ih (Nat.le_of_succ_le hn) (Nat.lt_of_le_of_ne (Nat.le_of_lt_succ hm) fun heq => hne ?_)
      rw [(unitPixel_change u n s).run, (unitPixel_change u n s).params, unitPixel_ch, unitPixel_y,
        unitPixel_x u hn, heq]
      rfl

end

/-- Settles O34: ROW leaves in PRINT what its work unit leaves, and every column is scanned. -/
theorem allZeroRowPrintsDotZero : Obligations.AllZeroRowPrintsDotZero := by
  intro s ch y c htakes hfits hch hy hwidth hsamples herrors htable
  have hzero : ZeroUnit s (ch, y) := by
    refine ⟨hfits, ⟨hch, hy⟩, fun x hx xi yi => hsamples x xi yi hx, ?_, htable⟩
    rintro e ⟨m, -, hm, rfl⟩
    exact herrors _ (Run.scanColumn_lt hm)
  obtain ⟨t, hexec, -, -, -, -, -, -, -, -, -, hget⟩ := rowTouchesItsOwnCellsAlone s ch y c htakes hfits hch hy hwidth
  refine ⟨t, hexec, fun x hx => ?_⟩
  obtain ⟨n, hn, rfl⟩ := Run.exists_scanColumn y hx
  rw [Memory.readElem_congr (hget .print (by decide)), rowProcess_eq_unitPixel]
  exact hzero.printed (Nat.le_refl _) hn

end Sys2Proof.Machine
end

section
/-! The checks of BAND (42_band_dispatch.md R201). -/

namespace Sys2Proof.Machine

theorem bandError_of_not_ready {s : State} (h : s.readyFlag = false) : bandError s = some .noActiveRun := if_pos h

theorem bandError_of_width {s : State} (hready : s.readyFlag = true) (h : s.acceptedCfg.outw ≠ s.run.outw) :
    bandError s = some .bufferBoundsExceeded := by
  simp [bandError, hready, h]

theorem bandError_eq_none {s : State} (hready : s.readyFlag = true) (h : s.acceptedCfg.outw = s.run.outw) :
    bandError s = none := by
  simp [bandError, hready, h]

/-- A taken BAND is checked and carried out by the BUSY engine. -/
theorem exec_band_of_takes {s : State} {r : Bool} {c : ConfigRegs} (h : s.takes r c) :
    ∃ w, exec .band s =
      checkedEffect (bandError (s.withOp (.busy r w c))) bandEffect (s.withOp (.busy r w c)) := by
  obtain ⟨w, hbusy⟩ := exec_of_takes .band h
  exact ⟨w, hbusy.trans (exec_band_of_busy rfl)⟩

/-- A taken BAND whose checks pass completes with its effect. -/
theorem exec_band_completes {s : State} {c : ConfigRegs} (htakes : s.takes true c)
    (hfits : s.run.fits s.params = true) (hwidth : c.outw = s.run.outw) :
    ∃ w, exec .band s = .next ((bandEffect (s.withOp (.busy true w c))).complete true) := by
  obtain ⟨w, hexec⟩ := exec_band_of_takes htakes
  refine ⟨w, hexec.trans ?_⟩
  rw [bandError_eq_none (s := s.withOp (.busy true w c)) rfl hwidth]
  exact if_pos hfits

/-- Settles O37: the BUSY engine holds the READY bit and the configuration of the acceptance (D37). -/
theorem bandRaisesTheFirstFailingCheck : Obligations.BandRaisesTheFirstFailingCheck := by
  intro s r c htakes
  obtain ⟨w, hexec⟩ := exec_band_of_takes htakes
  refine ⟨?_, ?_, rfl, rfl⟩
  · rintro rfl
    rw [hexec, bandError_of_not_ready rfl]
    rfl
  · rintro rfl hwidth
    rw [hexec, bandError_of_width (s := s.withOp (.busy true w c)) rfl hwidth]
    rfl

end Sys2Proof.Machine
end

section
/-! The partition of BAND into tasks (42_band_dispatch.md R202 to R205). Whatever the thread budget, the units of one
(channel, parity) key stand in the task lists in one and the same order; what the rules say of all units follows. -/

namespace Sys2Proof.Machine

/-! Keys (R205). -/

/-- The (channel, parity) key of a work unit (R205). -/
def unitKey (u : WorkUnit) : Nat × Nat := (u.1, u.2 % 2)

/-- The units of one key, in list order. -/
def unitsWithKey (k : Nat × Nat) (l : List WorkUnit) : List WorkUnit := l.filter (fun u => unitKey u = k)

theorem mem_unitsWithKey {k : Nat × Nat} {l : List WorkUnit} {u : WorkUnit} :
    u ∈ unitsWithKey k l ↔ u ∈ l ∧ unitKey u = k := by simp [unitsWithKey]

theorem unitsWithKey_cons_self (u : WorkUnit) (l : List WorkUnit) :
    unitsWithKey (unitKey u) (u :: l) = u :: unitsWithKey (unitKey u) l := by simp [unitsWithKey]

theorem unitsWithKey_cons_of_ne {k : Nat × Nat} {u : WorkUnit} (h : unitKey u ≠ k) (l : List WorkUnit) :
    unitsWithKey k (u :: l) = unitsWithKey k l := by simp [unitsWithKey, h]

theorem unitsWithKey_append (k : Nat × Nat) (l l' : List WorkUnit) :
    unitsWithKey k (l ++ l') = unitsWithKey k l ++ unitsWithKey k l' := List.filter_append _ _

theorem unitsWithKey_flatten (k : Nat × Nat) (ls : List (List WorkUnit)) :
    unitsWithKey k ls.flatten = ls.flatMap (unitsWithKey k) := by
  rw [unitsWithKey, List.filter_flatten, List.flatMap_def]
  rfl

theorem unitsWithKey_flatMap {α : Type} (k : Nat × Nat) (f : α → List WorkUnit) (l : List α) :
    unitsWithKey k (l.flatMap f) = l.flatMap (fun a => unitsWithKey k (f a)) := List.filter_flatMap

/-- Of the numbers below `n` only `k` contributes. -/
theorem flatMap_range_ite {α : Type} (n k : Nat) (l : Nat → List α) :
    (List.range n).flatMap (fun c => if c = k then l c else []) = if k < n then l k else [] := by
  induction n with
  | zero => rfl
  | succ n ih =>
    rw [List.range_succ, List.flatMap_append, ih, List.flatMap_singleton]
    rcases Nat.lt_trichotomy k n with h | rfl | h
    · rw [if_pos h, if_neg (by omega), if_pos (by omega), List.append_nil]
    · rw [if_neg (Nat.lt_irrefl _), if_pos rfl, if_pos (Nat.lt_succ_self _), List.nil_append]
    · rw [if_neg (by omega), if_neg (by omega), if_neg (by omega), List.nil_append]

/-! The rows of a parity. -/

theorem mem_rowsOfParity_iff {p outh y : Nat} : y ∈ rowsOfParity p outh ↔ y < outh ∧ y % 2 = p := by
  simp [rowsOfParity]

theorem rowsOfParity_sorted (p outh : Nat) : (rowsOfParity p outh).Pairwise (· < ·) :=
  List.pairwise_lt_range.filter _

theorem rowsOfParity_filter (p q outh : Nat) :
    (rowsOfParity p outh).filter (fun y => y % 2 = q) = if p = q then rowsOfParity p outh else [] := by
  split
  · next h =>
    exact List.filter_eq_self.2 fun y hy => decide_eq_true ((mem_rowsOfParity_iff.1 hy).2.trans h)
  · next h =>
    refine List.filter_eq_nil_iff.2 fun y hy => ?_
    rw [(mem_rowsOfParity_iff.1 hy).2, decide_eq_true_iff]
    exact h

/-- The rows of parity `p` are `p, p + 2, p + 4, …` (R203). -/
theorem rowsOfParity_eq_map {p : Nat} (hp : p < 2) (outh : Nat) :
    rowsOfParity p outh = (List.range ((outh + 1 - p) / 2)).map (fun i => p + 2 * i) := by
  induction outh with
  | zero =>
    rw [show (0 + 1 - p) / 2 = 0 by omega]
    rfl
  | succ n ih =>
    have hsucc : rowsOfParity p (n + 1) = rowsOfParity p n ++ if n % 2 = p then [n] else [] := by
      by_cases h : n % 2 = p <;> simp [rowsOfParity, List.range_succ, h]
    rw [hsucc, ih]
    split
    · next h =>
      rw [show (n + 1 + 1 - p) / 2 = (n + 1 - p) / 2 + 1 by omega, List.range_succ, List.map_append, List.map_singleton,
        show p + 2 * ((n + 1 - p) / 2) = n by omega]
    · next h =>
      rw [show (n + 1 + 1 - p) / 2 = (n + 1 - p) / 2 by omega, List.append_nil]

/-- A parity is 0 or 1. -/
theorem rowsOfParity_split (p outh : Nat) :
    (if 0 = p then rowsOfParity 0 outh else []) ++ (if 1 = p then rowsOfParity 1 outh else []) =
      rowsOfParity p outh := by
  match p with
  | 0 => simp
  | 1 => simp
  | p + 2 =>
    refine (List.filter_eq_nil_iff.2 fun y _ => ?_).symm
    rw [decide_eq_true_iff]
    omega

/-! The four partitions (R202). -/

theorem partition_of_eight {threads : Nat} (h : 8 ≤ threads) (chans outh : Nat) :
    partition true threads chans outh =
      (List.range chans).flatMap (fun c => [unitsOfKey outh c 0, unitsOfKey outh c 1]) :=
  if_pos ⟨rfl, h⟩

theorem partition_of_four {threads : Nat} (h : 4 ≤ threads) (h8 : threads < 8) (chans outh : Nat) :
    partition true threads chans outh = (List.range chans).map (unitsOfChannel outh) := by
  rw [partition, if_neg (by omega), if_pos ⟨rfl, h⟩]

theorem partition_of_two {threads : Nat} (h : 2 ≤ threads) (h4 : threads < 4) (chans outh : Nat) :
    partition true threads chans outh =
      [unitsOfRows chans (rowsOfParity 0 outh), unitsOfRows chans (rowsOfParity 1 outh)] := by
  rw [partition, if_neg (by omega), if_neg (by omega), if_pos ⟨rfl, h⟩]

theorem partition_of_sequential {par : Bool} {threads : Nat} (h : par = false ∨ threads < 2) (chans outh : Nat) :
    partition par threads chans outh = [unitsOfRows chans (List.range outh)] := by
  rcases h with rfl | h
  · rfl
  · rw [partition, if_neg (by omega), if_neg (by omega), if_neg (by omega)]

/-- Every thread budget chooses one of the four. -/
theorem partition_cases (par : Bool) (threads chans outh : Nat) :
    partition par threads chans outh =
        (List.range chans).flatMap (fun c => [unitsOfKey outh c 0, unitsOfKey outh c 1]) ∨
    partition par threads chans outh = (List.range chans).map (unitsOfChannel outh) ∨
    partition par threads chans outh =
        [unitsOfRows chans (rowsOfParity 0 outh), unitsOfRows chans (rowsOfParity 1 outh)] ∨
    partition par threads chans outh = [unitsOfRows chans (List.range outh)] := by
  by_cases hone : par = false ∨ threads < 2
  · exact .inr (.inr (.inr (partition_of_sequential hone chans outh)))
  obtain ⟨hpar, h2⟩ := not_or.1 hone
  obtain rfl := Bool.eq_true_of_not_eq_false hpar
  by_cases h8 : 8 ≤ threads
  · exact .inl (partition_of_eight h8 chans outh)
  by_cases h4 : 4 ≤ threads
  · exact .inr (.inl (partition_of_four h4 (by omega) chans outh))
  · exact .inr (.inr (.inl (partition_of_two (by omega) (by omega) chans outh)))

/-! The units of one key in each kind of list (R203). -/

theorem unitsWithKey_map_channel (k : Nat × Nat) (c : Nat) (rows : List Nat) :
    unitsWithKey k (rows.map (fun y => (c, y))) =
      if c = k.1 then (rows.filter (fun y => y % 2 = k.2)).map (fun y => (c, y)) else [] := by
  rw [unitsWithKey, List.filter_map]
  split
  · next h =>
    subst h
    congr 1
    refine List.filter_congr fun y _ => ?_
    simp [unitKey, Prod.ext_iff]
  · next h =>
    rw [List.map_eq_nil_iff]
    refine List.filter_eq_nil_iff.2 fun y _ => ?_
    simp [unitKey, Prod.ext_iff, h]

/-- The two tasks of a channel hold its units of either parity. -/
theorem unitsWithKey_bothParities (k : Nat × Nat) (outh c : Nat) :
    unitsWithKey k (unitsOfKey outh c 0) ++ unitsWithKey k (unitsOfKey outh c 1) =
      if c = k.1 then unitsOfKey outh c k.2 else [] := by
  simp only [unitsOfKey, unitsWithKey_map_channel, rowsOfParity_filter]
  split
  · rw [← List.map_append, rowsOfParity_split]
  · rfl

theorem unitsWithKey_row (k : Nat × Nat) (chans y : Nat) :
    unitsWithKey k ((List.range chans).map (fun c => (c, y))) =
      if k.1 < chans then if y % 2 = k.2 then [(k.1, y)] else [] else [] := by
  rw [← flatMap_range_ite chans k.1 fun c => if y % 2 = k.2 then [(c, y)] else [], List.map_eq_flatMap,
    unitsWithKey_flatMap]
  refine List.flatMap_congr fun c _ => ?_
  by_cases hc : c = k.1 <;> by_cases hy : y % 2 = k.2 <;> simp [unitsWithKey, unitKey, Prod.ext_iff, hc, hy]

theorem unitsWithKey_unitsOfRows (k : Nat × Nat) (chans : Nat) (rows : List Nat) :
    unitsWithKey k (unitsOfRows chans rows) =
      if k.1 < chans then (rows.filter (fun y => y % 2 = k.2)).map (fun y => (k.1, y)) else [] := by
  rw [unitsOfRows, unitsWithKey_flatMap]
  simp only [unitsWithKey_row]
  split
  · induction rows with
    | nil => rfl
    | cons y rows ih => by_cases h : y % 2 = k.2 <;> simp [h, ih]
  · exact List.flatMap_eq_nil_iff.2 fun _ _ => rfl

/-- Whatever the thread budget, the units of a key of the run stand in the task lists by ascending row (R203, R204). -/
theorem unitsWithKey_partition (k : Nat × Nat) (par : Bool) (threads chans outh : Nat) :
    unitsWithKey k (partition par threads chans outh).flatten =
      if k.1 < chans then unitsOfKey outh k.1 k.2 else [] := by
  rcases partition_cases par threads chans outh with h | h | h | h <;> rw [h]
  · rw [unitsWithKey_flatten, List.flatMap_assoc, ← flatMap_range_ite chans k.1 fun c => unitsOfKey outh c k.2]
    refine List.flatMap_congr fun c _ => ?_
    simp only [List.flatMap_cons, List.flatMap_nil, List.append_nil]
    exact unitsWithKey_bothParities k outh c
  · rw [unitsWithKey_flatten, List.flatMap_map, ← flatMap_range_ite chans k.1 fun c => unitsOfKey outh c k.2]
    exact List.flatMap_congr fun c _ => unitsWithKey_map_channel k c _
  · rw [unitsWithKey_flatten]
    simp only [List.flatMap_cons, List.flatMap_nil, List.append_nil, unitsWithKey_unitsOfRows, rowsOfParity_filter]
    split
    · rw [← List.map_append, rowsOfParity_split]
      rfl
    · rfl
  · rw [List.flatten_singleton, unitsWithKey_unitsOfRows]
    rfl

/-! The statements. -/

theorem mem_partition_flatten {par : Bool} {threads chans outh : Nat} {u : WorkUnit} :
    u ∈ (partition par threads chans outh).flatten ↔ u.1 < chans ∧ u.2 < outh := by
  have hkey : u ∈ (partition par threads chans outh).flatten ↔
      u ∈ unitsWithKey (unitKey u) (partition par threads chans outh).flatten := by
    rw [mem_unitsWithKey]
    exact (and_iff_left rfl).symm
  rw [hkey, unitsWithKey_partition]
  obtain ⟨c, y⟩ := u
  by_cases hc : c < chans <;> simp [unitKey, unitsOfKey, mem_rowsOfParity_iff, hc]

/-- A list whose units ascend key by key: of two units of one key the later one is of a later row (R204). -/
def AscendsPerKey (l : List WorkUnit) : Prop := l.Pairwise (fun u v => unitKey u = unitKey v → u.2 < v.2)

theorem ascendsPerKey_of_keys {l : List WorkUnit}
    (h : ∀ k, (unitsWithKey k l).Pairwise (fun u v => u.2 < v.2)) : AscendsPerKey l := by
  induction l with
  | nil => exact .nil
  | cons u l ih =>
    refine List.pairwise_cons.2 ⟨fun v hv hkey => ?_, ih fun k => ?_⟩
    · have hu := h (unitKey u)
      rw [unitsWithKey_cons_self] at hu
      exact List.rel_of_pairwise_cons hu (mem_unitsWithKey.2 ⟨hv, hkey.symm⟩)
    · exact (h k).sublist ((List.sublist_cons_self u l).filter _)

theorem partition_ascendsPerKey (par : Bool) (threads chans outh : Nat) :
    AscendsPerKey (partition par threads chans outh).flatten := by
  refine ascendsPerKey_of_keys fun k => ?_
  rw [unitsWithKey_partition]
  split
  · exact List.pairwise_map.2 (rowsOfParity_sorted _ _)
  · exact .nil

/-- Settles O38: the partition written out, its rows by `rowsOfParity_eq_map`. -/
theorem partitionFollowsTheThreadBudget : Obligations.PartitionFollowsTheThreadBudget := by
  intro par threads chans outh
  dsimp only
  rw [← rowsOfParity_eq_map (p := 0) (by decide), ← rowsOfParity_eq_map (p := 1) (by decide)]
  refine ⟨?_, ?_, ?_, fun hone => partition_of_sequential hone chans outh⟩
  · rintro rfl h8
    rw [partition_of_eight h8]
    exact ⟨by simp [Nat.mul_comm], rfl⟩
  · rintro rfl h4 h7
    rw [partition_of_four h4 (by omega)]
    exact ⟨by simp, rfl⟩
  · rintro rfl h2 h3
    exact partition_of_two h2 (by omega) chans outh

/-- No key has units in both task lists (R205). -/
def KeysApart (t u : List WorkUnit) : Prop := ∀ c y z, (c, y) ∈ t → (c, z) ∈ u → y % 2 ≠ z % 2

theorem keysApart_of_channels {c d : Nat} {t u : List WorkUnit} (ht : ∀ v ∈ t, v.1 = c) (hu : ∀ v ∈ u, v.1 = d)
    (hne : c ≠ d) : KeysApart t u :=
  fun c' y z h k => absurd ((ht (c', y) h).symm.trans (hu (c', z) k)) hne

theorem keysApart_of_parities {p q : Nat} {t u : List WorkUnit} (ht : ∀ v ∈ t, v.2 % 2 = p)
    (hu : ∀ v ∈ u, v.2 % 2 = q) (hne : p ≠ q) : KeysApart t u :=
  fun _ _ _ h k heq => hne ((ht _ h).symm.trans (heq.trans (hu _ k)))

theorem parity_of_mem_unitsOfKey {outh c p : Nat} {u : WorkUnit} (h : u ∈ unitsOfKey outh c p) : u.2 % 2 = p := by
  obtain ⟨y, hy, rfl⟩ := List.mem_map.1 h
  exact (mem_rowsOfParity_iff.1 hy).2

/-- The tasks differ in channel or in parity, or there is one (R205). -/
theorem partition_keysApart (par : Bool) (threads chans outh : Nat) :
    (partition par threads chans outh).Pairwise KeysApart := by
  have hne : (List.range chans).Pairwise (· ≠ ·) := List.nodup_range
  have hchan : ∀ {c p}, ∀ v ∈ unitsOfKey outh c p, v.1 = c := fun v hv => (mem_unitsOfKey hv).1
  rcases partition_cases par threads chans outh with h | h | h | h <;> rw [h]
  · refine List.pairwise_flatMap.2 ⟨fun c _ => ?_, hne.imp fun hcd t ht u hu => ?_⟩
    · exact List.pairwise_pair.2 (keysApart_of_parities (fun _ => parity_of_mem_unitsOfKey)
        (fun _ => parity_of_mem_unitsOfKey) (by decide))
    · rcases List.mem_pair.1 ht with rfl | rfl <;> rcases List.mem_pair.1 hu with rfl | rfl <;>
        exact keysApart_of_channels hchan hchan hcd
  · exact List.pairwise_map.2 (hne.imp (keysApart_of_channels (fun _ hv => (mem_unitsOfChannel hv).1)
      fun _ hv => (mem_unitsOfChannel hv).1))
  · exact List.pairwise_pair.2 (keysApart_of_parities
      (fun _ hv => (mem_rowsOfParity_iff.1 (mem_unitsOfRows hv).2).2)
      (fun _ hv => (mem_rowsOfParity_iff.1 (mem_unitsOfRows hv).2).2) (by decide))
  · exact List.pairwise_singleton _ _

/-- Settles O39: units of one key ascend, so none stands twice; tasks differ in channel, in parity or are one. -/
theorem partitionCoversEveryUnitOnce : Obligations.PartitionCoversEveryUnitOnce := by
  intro par threads chans outh
  refine ⟨(partition_ascendsPerKey par threads chans outh).imp fun hlt heq => ?_, fun c y => mem_partition_flatten,
    partition_keysApart par threads chans outh⟩
  subst heq
  exact Nat.lt_irrefl _ (hlt rfl)

/-- Settles O40: each task list is a part of the lists together. -/
theorem taskListsAscendPerKey : Obligations.TaskListsAscendPerKey := by
  intro par threads chans outh t ht
  exact ((partition_ascendsPerKey par threads chans outh).sublist (List.sublist_flatten_of_mem ht)).imp
    fun hlt hchan hparity => hlt (Prod.ext hchan hparity)

end Sys2Proof.Machine
end

section
/-! What a work unit reads (41_row_halftone.md R163, R184): of the memory the four input spaces and the EB cells of its
bank and channel. Two states that agree there take the same decisions, so a relation of memories that the engine's
writes keep and that gives these reads alike is kept by the whole work unit. -/

namespace Sys2Proof.Machine

/-! Counters (10_state.md R46, 43_output_encoder.md R224, R225). -/

/-- What a merge of the local tally adds to counter `j`. -/
def Tally.count (j : Nat) (t : Tally) : Word := (t.map (fun kn => if kn.1 = j then kn.2 else 0)).sum

@[simp] theorem Tally.count_nil (j : Nat) : Tally.count j [] = 0 := rfl

theorem Tally.count_cons (j : Nat) (kn : Nat × Word) (t : Tally) :
    Tally.count j (kn :: t) = (if kn.1 = j then kn.2 else 0) + Tally.count j t := by
  simp [Tally.count]

theorem Tally.count_tallyBump (j k : Nat) (t : Tally) :
    Tally.count j (tallyBump k t) = Tally.count j t + if k = j then 1#32 else 0 := by
  induction t with
  | nil => simp [tallyBump, Tally.count_cons]
  | cons jn t ih =>
    rw [tallyBump]
    split
    · next h =>
      rw [Tally.count_cons, Tally.count_cons, h]
      split
      · ring
      · ring
    · rw [Tally.count_cons, Tally.count_cons, ih]
      ring

theorem mergeTally_readElem (m : Memory) (t : Tally) (j : Nat) :
    (mergeTally m t).readElem .tally j = m.readElem .tally j + t.count j := by
  unfold mergeTally
  induction t generalizing m with
  | nil => simp
  | cons kn t ih =>
    rw [List.foldl_cons, ih, Tally.count_cons]
    by_cases h : kn.1 = j
    · rw [h, Memory.readElem_writeElem_word _ _ _ _ rfl, if_pos rfl]
      ring
    · rw [Memory.readElem_writeElem_other _ _ _ _ _ (Ne.symm h), if_neg h]
      ring

/-- What TALLY will hold under `j` once the waiting tallies and the one being counted are merged (R207, R225). -/
def State.total (s : State) (j : Nat) : Word :=
  s.mem.readElem .tally j + (s.finished.map (Tally.count j)).sum + s.task.tally.count j

theorem State.withTask_total {s : State} {τ : TaskRegs} (h : τ.tally = s.task.tally) (j : Nat) :
    (s.withTask τ).total j = s.total j := by
  rw [State.total, State.total, State.withTask_task, h]
  rfl

/-- The merge keeps the totals: what waited now stands in TALLY (R225). -/
theorem mergeTallies_total (s : State) (j : Nat) : s.mergeTallies.total j = s.total j := by
  have hmerge : ∀ (l : List Tally) (m : Memory),
      (l.foldl mergeTally m).readElem .tally j = m.readElem .tally j + (l.map (Tally.count j)).sum := by
    intro l
    induction l with
    | nil => simp
    | cons t l ih =>
      intro m
      rw [List.foldl_cons, ih, mergeTally_readElem, List.map_cons, List.sum_cons]
      ring
  change (s.finished.foldl mergeTally s.mem).readElem .tally j + 0 + _ = _
  rw [hmerge]
  simp [State.total, State.mergeTallies]

/-! Relations of memories. -/

/-- `R` gives the reads of a work unit whose EB cells are in `X` alike, and the engine's writes keep it. -/
structure MemSim (R : Memory → Memory → Prop) (X : Set Nat) : Prop where
  inputs : ∀ {m m'}, R m m' → InputsKept m m'
  cell : ∀ {m m'}, R m m' → ∀ {i}, i ∈ X → m'.readElem .eb i = m.readElem .eb i
  write : ∀ {m m'}, R m m' → ∀ {id}, id = .eb ∨ id = .print ∨ id = .preview → ∀ i v,
    R (m.writeElem id i v) (m'.writeElem id i v)

/-- `t` is at the same run and draws as `s`, the partition apart, with memories under `R`; its totals are `d` above. -/
structure Alike (R : Memory → Memory → Prop) (d : Nat → Word) (s t : State) : Prop where
  params : t.params = s.params
  run : ∃ par threads, t.run = { s.run with par := par, threads := threads }
  noise : s.run.h = 0#10 ∨ t.draws = s.draws
  mem : R s.mem t.mem
  total : ∀ j, t.total j = s.total j + d j

/-- The same, at the same pixel with the same values in the working registers. -/
structure PixelAlike (R : Memory → Memory → Prop) (d : Nat → Word) (s t : State) : Prop extends Alike R d s t where
  regs : ∃ units tally, t.task = { s.task with units := units, tally := tally }

section
variable {R : Memory → Memory → Prop} {X : Set Nat} {d : Nat → Word} {s t : State}

theorem Alike.outw (h : Alike R d s t) : t.run.outw = s.run.outw := by
  obtain ⟨par, threads, hrun⟩ := h.run
  rw [hrun]

theorem Alike.kh (h : Alike R d s t) : t.run.kh = s.run.kh := by
  obtain ⟨par, threads, hrun⟩ := h.run
  rw [hrun]

theorem Alike.hyst (h : Alike R d s t) : t.run.h = s.run.h := by
  obtain ⟨par, threads, hrun⟩ := h.run
  rw [hrun]

theorem Alike.fits (h : Alike R d s t) (ht : t.run.fits t.params = true) : s.run.fits s.params = true := by
  obtain ⟨par, threads, hrun⟩ := h.run
  rw [hrun, h.params] at ht
  exact ht

theorem Alike.hasUnit (h : Alike R d s t) {u : WorkUnit} (ht : t.run.HasUnit u) : s.run.HasUnit u := by
  obtain ⟨par, threads, hrun⟩ := h.run
  rw [hrun] at ht
  exact ht

/-! Steps 1 to 4 (R165 to R175). -/

theorem Alike.fetchSample (h : Alike R d s t) (hR : MemSim R X) (xi yi ch : Nat) :
    fetchSample t xi yi ch = fetchSample s xi yi ch := by
  obtain ⟨par, threads, hrun⟩ := h.run
  rw [fetchSample_eq, fetchSample_eq, hrun, Memory.readElem_congr (id := .raster) (hR.inputs h.mem).raster]
  rfl

theorem Alike.resample (h : Alike R d s t) (hR : MemSim R X) (x y ch : Nat) :
    resample t x y ch = resample s x y ch := by
  obtain ⟨par, threads, hrun⟩ := h.run
  unfold Machine.resample
  simp only [h.fetchSample hR, hrun]

theorem Alike.ebCell (h : Alike R d s t) (hR : MemSim R X) {b kr ch col : Nat}
    (hX : ebIndex s.params b kr ch col ∈ X) : t.ebCell b kr ch col = s.ebCell b kr ch col := by
  rw [State.ebCell, State.ebCell, h.params]
  exact hR.cell h.mem hX

/-- Working registers that hold values, replaced by the same ones in both. -/
theorem Alike.withTask (h : Alike R d s t) {τ τ' : TaskRegs} (hs : τ.tally = s.task.tally)
    (ht : τ'.tally = t.task.tally) (hregs : ∃ units tally, τ' = { τ with units := units, tally := tally }) :
    PixelAlike R d (s.withTask τ) (t.withTask τ') := by
  refine { h with total := fun j => ?_, regs := hregs }
  rw [State.withTask_total hs, State.withTask_total ht, h.total]

theorem PixelAlike.pixelResample (h : PixelAlike R d s t) (hR : MemSim R X) :
    PixelAlike R d (pixelResample s) (pixelResample t) := by
  obtain ⟨units, tally, hregs⟩ := h.regs
  refine h.withTask rfl rfl ⟨units, tally, ?_⟩
  rw [h.resample hR, hregs]

theorem PixelAlike.pixelAddError (h : PixelAlike R d s t) (hR : MemSim R X) (hX : s.columnCell 0 ∈ X) :
    PixelAlike R d (pixelAddError s) (pixelAddError t) := by
  obtain ⟨units, tally, hregs⟩ := h.regs
  refine h.withTask rfl rfl ⟨units, tally, ?_⟩
  rw [hregs, h.ebCell hR hX]

theorem PixelAlike.pixelQuantise (h : PixelAlike R d s t) : PixelAlike R d (pixelQuantise s) (pixelQuantise t) := by
  obtain ⟨par, threads, hrun⟩ := h.run
  obtain ⟨units, tally, hregs⟩ := h.regs
  refine h.withTask rfl rfl ⟨units, tally, ?_⟩
  rw [hregs, hrun]

theorem PixelAlike.pixelDot (h : PixelAlike R d s t) (hR : MemSim R X) : PixelAlike R d (pixelDot s) (pixelDot t) := by
  obtain ⟨units, tally, hregs⟩ := h.regs
  refine h.withTask rfl rfl ⟨units, tally, ?_⟩
  rw [hregs, Memory.readElem_congr (id := .dot) (hR.inputs h.mem).dot]

/-- Step 3 is inactive in both, or names the same draw in both (R171, R172; log 9). -/
theorem PixelAlike.pixelNoise (h : PixelAlike R d s t) : PixelAlike R d (pixelNoise s) (pixelNoise t) := by
  obtain ⟨par, threads, hrun⟩ := h.run
  obtain ⟨units, tally, hregs⟩ := h.regs
  have hv8 : t.task.v8 = s.task.v8 := by rw [hregs]
  have hh : t.run.h = s.run.h := by rw [hrun]
  by_cases hoff : s.task.v8 = 0 ∨ s.run.h = 0#10
  · rw [pixelNoise_inactive hoff, pixelNoise_inactive (s := t) (by rwa [hv8, hh])]
    exact h
  · obtain ⟨hon, hactive⟩ := not_or.1 hoff
    have hpos := Nat.pos_of_ne_zero hon
    have hdraws := h.noise.resolve_left hactive
    rw [pixelNoise_active hpos hactive, pixelNoise_active (s := t) (hv8 ▸ hpos) (hh ▸ hactive)]
    refine h.withTask rfl rfl ⟨units, tally, ?_⟩
    rw [hregs, hrun, hdraws]
    rfl

/-- Steps 1 to 4 take the same decision in both. -/
theorem PixelAlike.pixelDecide (h : PixelAlike R d s t) (hR : MemSim R X) (hX : s.columnCell 0 ∈ X) :
    PixelAlike R d (pixelDecide s) (pixelDecide t) :=
  ((((h.pixelResample hR).pixelAddError hR hX).pixelNoise).pixelQuantise).pixelDot hR

/-! Steps 5 to 7 (R176 to R178, 43_output_encoder.md R220 to R224). -/

/-- `s` with the element `i` of a space written. -/
def State.putElem (s : State) (id : SpaceId) (i : Nat) (v : Word) : State := s.withMem (s.mem.writeElem id i v)

@[simp] theorem State.putElem_mem (s : State) (id : SpaceId) (i : Nat) (v : Word) :
    (s.putElem id i v).mem = s.mem.writeElem id i v := rfl

/-- The same write in both. -/
theorem PixelAlike.putElem (h : PixelAlike R d s t) (hR : MemSim R X) {id : SpaceId}
    (hid : id = .eb ∨ id = .print ∨ id = .preview) (i : Nat) (v : Word) :
    PixelAlike R d (s.putElem id i v) (t.putElem id i v) := by
  have htally : SpaceId.tally ≠ id := by rcases hid with rfl | rfl | rfl <;> decide
  refine { h with mem := hR.write h.mem hid i v, total := fun j => ?_ }
  have htotal := h.total j
  unfold State.total at htotal ⊢
  simp only [State.putElem_mem, Memory.readElem_writeElem_space _ _ _ _ _ _ htally]
  exact htotal

theorem PixelAlike.slotInRow (h : PixelAlike R d s t) (slot : Nat) : t.SlotInRow slot ↔ s.SlotInRow slot := by
  obtain ⟨units, tally, hregs⟩ := h.regs
  rw [State.SlotInRow, State.SlotInRow, hregs, h.outw]

theorem PixelAlike.slotCell (h : PixelAlike R d s t) (j : Nat × Nat) : t.slotCell j = s.slotCell j := by
  obtain ⟨units, tally, hregs⟩ := h.regs
  rw [State.slotCell, State.slotCell, hregs, h.params]

theorem PixelAlike.columnCell (h : PixelAlike R d s t) (kr : Nat) : t.columnCell kr = s.columnCell kr := by
  obtain ⟨units, tally, hregs⟩ := h.regs
  rw [State.columnCell, State.columnCell, hregs, h.params]

theorem PixelAlike.errEntry (h : PixelAlike R d s t) (hR : MemSim R X) (kr slot : Nat) :
    t.errEntry t.task.q kr slot = s.errEntry s.task.q kr slot := by
  obtain ⟨par, threads, hrun⟩ := h.run
  obtain ⟨units, tally, hregs⟩ := h.regs
  rw [State.errEntry, State.errEntry, hregs, hrun, Memory.readElem_congr (id := .errtab) (hR.inputs h.mem).errtab]
  rfl

theorem diffuseSlot_of_inRow {s : State} {j : Nat × Nat} (h : s.SlotInRow j.2) :
    diffuseSlot j.1 j.2 s = s.putElem .eb (s.slotCell j)
      (fadd32 (s.mem.readElem .eb (s.slotCell j)) (s.errEntry s.task.q j.1 j.2)) := if_pos h

theorem PixelAlike.diffuseSlot (h : PixelAlike R d s t) (hR : MemSim R X) {j : Nat × Nat}
    (hX : s.SlotInRow j.2 → s.slotCell j ∈ X) :
    PixelAlike R d (diffuseSlot j.1 j.2 s) (diffuseSlot j.1 j.2 t) := by
  by_cases hin : s.SlotInRow j.2
  · rw [diffuseSlot_of_inRow hin, diffuseSlot_of_inRow ((h.slotInRow j.2).2 hin), h.slotCell, h.errEntry hR,
      hR.cell h.mem (hX hin)]
    exact h.putElem hR (.inl rfl) _ _
  · rw [diffuseSlot_of_not_inRow hin, diffuseSlot_of_not_inRow fun hin' => hin ((h.slotInRow j.2).1 hin')]
    exact h

theorem PixelAlike.diffuseSlots (h : PixelAlike R d s t) (hR : MemSim R X) {l : List (Nat × Nat)}
    (hX : ∀ j ∈ l, s.SlotInRow j.2 → s.slotCell j ∈ X) :
    PixelAlike R d (l.foldl (fun s j => Machine.diffuseSlot j.1 j.2 s) s)
      (l.foldl (fun s j => Machine.diffuseSlot j.1 j.2 s) t) := by
  induction l generalizing s t with
  | nil => exact h
  | cons j l ih =>
    obtain ⟨hhead, htail⟩ := List.forall_mem_cons.1 hX
    have heb := diffuseSlot_eb j.1 j.2 s
    refine ih (h.diffuseSlot hR hhead) fun k hk hin => ?_
    rw [heb.slotCell]
    exact htail k hk ((heb.slotInRow k.2).1 hin)

theorem PixelAlike.pixelDiffuse (h : PixelAlike R d s t) (hR : MemSim R X)
    (hX : ∀ j : Nat × Nat, j.1 < s.run.kh.toNat → s.SlotInRow j.2 → s.slotCell j ∈ X) :
    PixelAlike R d (pixelDiffuse s) (pixelDiffuse t) := by
  rw [pixelDiffuse_eq_foldl, pixelDiffuse_eq_foldl, h.kh]
  exact h.diffuseSlots hR fun j hj => hX j (mem_diffuseSlots.1 hj).1

theorem shiftRow_eq (kr : Nat) (s : State) :
    shiftRow kr s = s.putElem .eb (s.columnCell kr) (s.mem.readElem .eb (s.columnCell (kr + 1))) := rfl

theorem PixelAlike.shiftRows (h : PixelAlike R d s t) (hR : MemSim R X) {n : Nat}
    (hX : ∀ kr < n, s.columnCell (kr + 1) ∈ X) : PixelAlike R d (shiftRows n s) (shiftRows n t) := by
  induction n with
  | zero => exact h
  | succ n ih =>
    have hrest := ih fun kr hkr => hX kr (by omega)
    have hcell : (Machine.shiftRows n s).columnCell (n + 1) ∈ X := by
      rw [(shiftRows_eb n s).columnCell]
      exact hX n (Nat.lt_succ_self n)
    have hsucc : ∀ u, Machine.shiftRows (n + 1) u = shiftRow n (Machine.shiftRows n u) := fun u => by
      rw [Machine.shiftRows, List.range_succ, List.foldl_append]
      rfl
    rw [hsucc, hsucc, shiftRow_eq, shiftRow_eq, hrest.columnCell, hrest.columnCell, hR.cell hrest.mem hcell]
    exact hrest.putElem hR (.inl rfl) _ _

theorem pixelShift_eq (s : State) :
    pixelShift s =
      (shiftRows (s.run.kh.toNat - 1) s).putElem .eb (s.columnCell (s.run.kh.toNat - 1)) 0#32 := by
  rw [State.columnCell, ← (shiftRows_eb (s.run.kh.toNat - 1) s).params]
  rfl

theorem PixelAlike.pixelShift (h : PixelAlike R d s t) (hR : MemSim R X)
    (hX : ∀ kr < s.run.kh.toNat, s.columnCell kr ∈ X) : PixelAlike R d (pixelShift s) (pixelShift t) := by
  rw [pixelShift_eq, pixelShift_eq, h.kh, h.columnCell]
  exact (h.shiftRows hR fun kr hkr => hX (kr + 1) (by omega)).putElem hR (.inl rfl) _ _

/-- `s` with one more dot on the task's counter `k` (43_output_encoder.md R224). -/
def State.countDot (s : State) (k : Nat) : State := s.withTask { s.task with tally := tallyBump k s.task.tally }

theorem State.countDot_total (s : State) (k j : Nat) :
    (s.countDot k).total j = s.total j + if k = j then 1#32 else 0 := by
  rw [State.countDot, State.total, State.withTask_task, Tally.count_tallyBump, ← add_assoc]
  rfl

theorem PixelAlike.countDot (h : PixelAlike R d s t) (k : Nat) : PixelAlike R d (s.countDot k) (t.countDot k) := by
  obtain ⟨units, tally, hregs⟩ := h.regs
  refine { h with total := fun j => ?_, regs := ⟨units, tallyBump k t.task.tally, ?_⟩ }
  · rw [State.countDot_total, State.countDot_total, h.total]
    ring
  · rw [State.countDot, State.withTask_task, hregs]
    rfl

theorem pixelEmit_eq (s : State) :
    pixelEmit s =
      ((s.putElem .print (printIndex s.params s.run (s.run.inkOf s.task.ch) s.task.x.toNat s.task.y)
        (s.task.dot.setWidth 32)).putElem .preview (previewIndex s.run s.task.x.toNat s.task.y s.task.ch)
        (s.mem.readElem .pvlut s.task.dot.toNat)).countDot
        (tallyIndex (s.run.inkOf s.task.ch) s.task.dot.toNat) := rfl

theorem PixelAlike.pixelEmit (h : PixelAlike R d s t) (hR : MemSim R X) :
    PixelAlike R d (pixelEmit s) (pixelEmit t) := by
  obtain ⟨par, threads, hrun⟩ := h.run
  obtain ⟨units, tally, hregs⟩ := h.regs
  rw [pixelEmit_eq, pixelEmit_eq t, Memory.readElem_congr (id := .pvlut) (hR.inputs h.mem).pvlut, h.params, hrun, hregs]
  exact ((h.putElem hR (.inr (.inl rfl)) _ _).putElem hR (.inr (.inr rfl)) _ _).countDot _

theorem PixelAlike.pixelAdvance (h : PixelAlike R d s t) : PixelAlike R d (pixelAdvance s) (pixelAdvance t) := by
  obtain ⟨units, tally, hregs⟩ := h.regs
  refine h.withTask rfl rfl ⟨units, tally, ?_⟩
  rw [hregs]

/-- A pixel whose EB cells are in `X`. -/
theorem PixelAlike.pixel (h : PixelAlike R d s t) (hR : MemSim R X) (hs : s.AtPixel) (hX : s.unitElems .eb ⊆ X) :
    PixelAlike R d (pixel s) (pixel t) := by
  obtain ⟨hkh, -⟩ := Run.fits_bounds hs.fits
  have hcell : ∀ {kr col}, kr < s.run.kh.toNat → col < s.run.outw.toNat →
      ebIndex s.params s.task.b kr s.task.ch col ∈ X := fun hkr hcol => hX (hs.cell_mem hkr hcol)
  have hchange := pixelDecide_change s
  have hscan := pixelDecide_scan s
  have heb := pixelDiffuse_eb (Machine.pixelDecide s)
  have hdecide := h.pixelDecide hR (hcell hkh hs.column_lt)
  have hdiffuse := hdecide.pixelDiffuse hR fun j hkr hin => by
    have hat := hs.of_change hchange hscan
    refine hX (State.unitElems_of_change hchange hscan ▸ hat.cell_mem hkr ?_)
    obtain ⟨hlow, hhigh⟩ := hin
    omega
  have hshift := hdiffuse.pixelShift hR fun kr hkr => by
    rw [heb.run, hchange.run] at hkr
    rw [heb.columnCell, State.columnCell_of_change hchange hscan]
    exact hcell hkr hs.column_lt
  exact (hshift.pixelEmit hR).pixelAdvance

/-! A work unit and a list of them (R162, R163). -/

theorem Alike.setupUnit (h : Alike R d s t) (u : WorkUnit) : PixelAlike R d (setupUnit u s) (setupUnit u t) := by
  obtain ⟨par, threads, hrun⟩ := h.run
  refine h.withTask rfl rfl ⟨t.task.units, t.task.tally, ?_⟩
  rw [hrun]
  rfl

theorem Alike.unitPixel (h : Alike R d s t) (hR : MemSim R X) {u : WorkUnit} (hfits : s.run.fits s.params = true)
    (hu : s.run.HasUnit u) (hX : s.run.unitElems s.params u .eb ⊆ X) {n : Nat} (hn : n ≤ s.run.outw.toNat) :
    PixelAlike R d (unitPixel u n s) (unitPixel u n t) := by
  induction n with
  | zero => exact h.setupUnit u
  | succ n ih =>
    rw [unitPixel_succ, unitPixel_succ]
    refine (ih (Nat.le_of_succ_le hn)).pixel hR (unitPixel_atPixel hfits hu hn) ?_
    rw [unitPixel_unitElems]
    exact hX

theorem Alike.rowProcess (h : Alike R d s t) (hR : MemSim R X) {u : WorkUnit} (hfits : s.run.fits s.params = true)
    (hu : s.run.HasUnit u) (hX : s.run.unitElems s.params u .eb ⊆ X) :
    Alike R d (rowProcess u s) (rowProcess u t) := by
  rw [rowProcess_eq_unitPixel, rowProcess_eq_unitPixel, h.outw]
  exact (h.unitPixel hR hfits hu hX (Nat.le_refl _)).toAlike

end

/-- `RowProcess` of the work units of a list, one after another. -/
def processUnits (l : List WorkUnit) (s : State) : State := l.foldl (fun u v => rowProcess v u) s

theorem processUnits_append (l l' : List WorkUnit) (s : State) :
    processUnits (l ++ l') s = processUnits l' (processUnits l s) := List.foldl_append

theorem processUnits_change (l : List WorkUnit) (s : State) : PipelineChange s (processUnits l s) :=
  .foldl _ (fun s u => rowProcess_change u s) l s

theorem Alike.processUnits {R : Memory → Memory → Prop} {d : Nat → Word} {s t : State} (h : Alike R d s t)
    (hR : MemSim R Set.univ) {l : List WorkUnit} (hfits : s.run.fits s.params = true)
    (hl : ∀ u ∈ l, s.run.HasUnit u) : Alike R d (processUnits l s) (processUnits l t) := by
  induction l generalizing s t with
  | nil => exact h
  | cons u l ih =>
    obtain ⟨hhead, htail⟩ := List.forall_mem_cons.1 hl
    have hchange := rowProcess_change u s
    refine ih (h.rowProcess hR hfits hhead (Set.subset_univ _)) ?_ ?_
    · rw [hchange.run, hchange.params]
      exact hfits
    · rw [hchange.run]
      exact htail

end Sys2Proof.Machine
end

section
/-! The order of work units (42_band_dispatch.md R205, R206). With distinct inks, work units of different keys touch
different cells and neither reads what the other writes, so two lists that hold the units of each key in the same order
leave the same. -/

namespace Sys2Proof.Machine

/-! Two relations of memories. -/

/-- The input spaces are the same and the elements `E` read alike, TALLY apart. -/
structure AgreeOn (E : SpaceId → Set Nat) (m m' : Memory) : Prop where
  inputs : InputsKept m m'
  elem : ∀ {id}, id ≠ .tally → ∀ {i}, i ∈ E id → m'.readElem id i = m.readElem id i

/-- Every space is the same, TALLY apart. -/
def SameData (m m' : Memory) : Prop := ∀ id, id ≠ .tally → m'.get id = m.get id

/-- Every element of every space reads alike, TALLY apart. -/
abbrev AgreeEverywhere : Memory → Memory → Prop := AgreeOn fun _ => Set.univ

theorem AgreeOn.refl (E : SpaceId → Set Nat) (m : Memory) : AgreeOn E m m := ⟨.refl m, fun _ _ _ => rfl⟩

theorem AgreeOn.trans {E : SpaceId → Set Nat} {m m' m'' : Memory} (h : AgreeOn E m m') (k : AgreeOn E m' m'') :
    AgreeOn E m m'' := ⟨h.inputs.trans k.inputs, fun hid _ hi => (k.elem hid hi).trans (h.elem hid hi)⟩

theorem SameData.agreeOn {m m' : Memory} (h : SameData m m') (E : SpaceId → Set Nat) : AgreeOn E m m' where
  inputs := inputsKept_of_get fun id _ _ _ htally => h id htally
  elem hid i _ := Memory.readElem_congr (h _ hid) i

/-- The same element written in both. -/
theorem AgreeOn.writeElem {E : SpaceId → Set Nat} {m m' : Memory} (h : AgreeOn E m m') {id : SpaceId}
    (hid : id = .eb ∨ id = .print ∨ id = .preview) (i : Nat) (v : Word) :
    AgreeOn E (m.writeElem id i v) (m'.writeElem id i v) where
  inputs := by
    obtain ⟨hdot, herrtab, hpvlut, hraster⟩ := h.inputs
    rcases hid with rfl | rfl | rfl <;> exact ⟨hdot, herrtab, hpvlut, hraster⟩
  elem {jd} hjd {j} hj := by
    by_cases hspace : jd = id
    · subst hspace
      by_cases hij : j = i
      · rw [hij, Memory.readElem_writeElem_same, Memory.readElem_writeElem_same]
      · rw [Memory.readElem_writeElem_other _ _ _ _ _ hij, Memory.readElem_writeElem_other _ _ _ _ _ hij]
        exact h.elem hjd hj
    · rw [Memory.readElem_writeElem_space _ _ _ _ _ _ hspace, Memory.readElem_writeElem_space _ _ _ _ _ _ hspace]
      exact h.elem hjd hj

theorem agreeOn_memSim (E : SpaceId → Set Nat) : MemSim (AgreeOn E) (E .eb) where
  inputs := AgreeOn.inputs
  cell h _ hi := h.elem (by decide) hi
  write h _ hid := h.writeElem hid

theorem sameData_memSim : MemSim SameData Set.univ where
  inputs h := (h.agreeOn fun _ => Set.univ).inputs
  cell h i _ := Memory.readElem_congr (h .eb (by decide)) i
  write h id hid i v jd hjd := by
    rw [Memory.get_writeElem, Memory.get_writeElem, h jd hjd]
    split
    · next heq => rw [← heq, h jd hjd]
    · rfl

/-! Alike states. -/

theorem Alike.mono {R R' : Memory → Memory → Prop} {d : Nat → Word} {s t : State} (h : Alike R d s t)
    (hR : ∀ {m m'}, R m m' → R' m m') : Alike R' d s t := { h with mem := hR h.mem }

theorem Alike.trans {R : Memory → Memory → Prop} (hR : ∀ {m m' m''}, R m m' → R m' m'' → R m m'')
    {s t u : State} (h : Alike R 0 s t) (k : Alike R 0 t u) : Alike R 0 s u where
  params := k.params.trans h.params
  run := by
    obtain ⟨par, threads, hrun⟩ := h.run
    obtain ⟨par', threads', krun⟩ := k.run
    exact ⟨par', threads', by rw [krun, hrun]⟩
  noise := by
    obtain ⟨par, threads, hrun⟩ := h.run
    rcases h.noise with hzero | hdraws
    · exact .inl hzero
    · exact k.noise.imp (by rw [hrun]; exact id) fun kdraws => kdraws.trans hdraws
  mem := hR h.mem k.mem
  total j := by rw [k.total, h.total]; simp

/-- Two states of one run at the same draws. -/
theorem Alike.of_eq {R : Memory → Memory → Prop} {d : Nat → Word} {s t : State} (hparams : t.params = s.params)
    (hrun : t.run = s.run) (hdraws : t.draws = s.draws) (hmem : R s.mem t.mem)
    (htotal : ∀ j, t.total j = s.total j + d j) : Alike R d s t :=
  ⟨hparams, ⟨s.run.par, s.run.threads, hrun⟩, .inr hdraws, hmem, htotal⟩

theorem Alike.refl {R : Memory → Memory → Prop} (hR : ∀ m, R m m) (s : State) : Alike R 0 s s :=
  .of_eq rfl rfl rfl (hR _) fun _ => (add_zero _).symm

/-! Work units of different keys. -/

/-- A position in blocks of `w` is its block and its place in the block. -/
theorem mul_add_inj {i i' j j' w : Nat} (hj : j < w) (hj' : j' < w) (h : i * w + j = i' * w + j') :
    i = i' ∧ j = j' := by
  have hmod := congrArg (· % w) h
  simp only [Nat.mul_add_mod', Nat.mod_eq_of_lt hj, Nat.mod_eq_of_lt hj'] at hmod
  subst hmod
  exact ⟨Nat.eq_of_mul_eq_mul_right (Nat.zero_lt_of_lt hj) (Nat.add_right_cancel h), rfl⟩

section
variable {p : Config.Params} {r : Run} {u v : WorkUnit} (hfits : r.fits p = true) (hu : r.HasUnit u)
  (hv : r.HasUnit v)
include hfits hu hv

theorem unitKey_eq_of_ebIndex {kr kr' col col' : Nat} (hkr : kr < r.kh.toNat) (hkr' : kr' < r.kh.toNat)
    (hcol : col < r.outw.toNat) (hcol' : col' < r.outw.toNat)
    (h : ebIndex p (u.2 % 2) kr u.1 col = ebIndex p (v.2 % 2) kr' v.1 col') : unitKey u = unitKey v := by
  obtain ⟨-, hkh, hchan, houtw, -⟩ := Run.fits_bounds hfits
  obtain ⟨hrow, -⟩ := mul_add_inj (Nat.lt_of_lt_of_le hcol houtw) (Nat.lt_of_lt_of_le hcol' houtw) h
  have huc := hu.1
  have hvc := hv.1
  exact Prod.ext (by unfold unitKey; omega) (by unfold unitKey; omega)

theorem unit_eq_of_printIndex (hinks : r.inksDistinct) {x x' : Nat} (hx : x < r.outw.toNat) (hx' : x' < r.outw.toNat)
    (h : printIndex p r (r.inkOf u.1) x u.2 = printIndex p r (r.inkOf v.1) x' v.2) : u = v := by
  obtain ⟨-, -, -, -, hpix⟩ := Run.fits_bounds hfits
  rw [printIndex, printIndex, Nat.add_assoc, Nat.add_assoc] at h
  obtain ⟨hink, hpixel⟩ := mul_add_inj (Nat.lt_of_lt_of_le (pixel_lt hx hu.2) hpix)
    (Nat.lt_of_lt_of_le (pixel_lt hx' hv.2) hpix) h
  exact Prod.ext (hinks _ _ hu.1 hv.1 hink) (mul_add_inj hx hx' hpixel).1

omit hfits in
theorem unit_eq_of_previewIndex {x x' : Nat} (hx : x < r.outw.toNat) (hx' : x' < r.outw.toNat)
    (h : previewIndex r x u.2 u.1 = previewIndex r x' v.2 v.1) : u = v := by
  obtain ⟨hpixel, hchan⟩ := mul_add_inj hu.1 hv.1 h
  exact Prod.ext hchan (mul_add_inj hx hx' hpixel).1

/-- Work units of different keys have no element in common, TALLY apart (R205). -/
theorem unitElems_apart (hinks : r.inksDistinct) (hkey : unitKey u ≠ unitKey v) {id : SpaceId} (hid : id ≠ .tally)
    {i : Nat} (hi : i ∈ r.unitElems p u id) : i ∉ r.unitElems p v id := by
  intro hi'
  cases id with
  | eb =>
    obtain ⟨kr, col, hkr, hcol, rfl⟩ := hi
    obtain ⟨kr', col', hkr', hcol', heq⟩ := hi'
    exact hkey (unitKey_eq_of_ebIndex hfits hu hv hkr hkr' hcol hcol' heq)
  | print =>
    obtain ⟨x, hx, rfl⟩ := hi
    obtain ⟨x', hx', heq⟩ := hi'
    exact hkey (congrArg unitKey (unit_eq_of_printIndex hfits hu hv hinks hx hx' heq))
  | preview =>
    obtain ⟨x, hx, rfl⟩ := hi
    obtain ⟨x', hx', heq⟩ := hi'
    exact hkey (congrArg unitKey (unit_eq_of_previewIndex hu hv hx hx' heq))
  | tally => exact hid rfl
  | dot | errtab | pvlut | raster => exact hi

end

/-- The premises under which the order of work units is free. -/
structure FreeOrder (s : State) : Prop where
  fits : s.run.fits s.params = true
  inks : s.run.inksDistinct

theorem FreeOrder.of_change {s t : State} (h : FreeOrder s) (hst : PipelineChange s t) : FreeOrder t where
  fits := by rw [hst.run, hst.params]; exact h.fits
  inks := by rw [hst.run]; exact h.inks

theorem PipelineChange.inputsKept {s t : State} (h : PipelineChange s t) : InputsKept s.mem t.mem :=
  ⟨h.dot, h.errtab, h.pvlut, h.raster⟩

section
variable {s : State} {u v : WorkUnit} (hs : FreeOrder s) (hu : s.run.HasUnit u) (hv : s.run.HasUnit v)
  (hkey : unitKey u ≠ unitKey v)
include hs hu hv hkey

/-- A work unit leaves what one of another key touches as it was. -/
theorem rowProcess_alike_apart :
    Alike (AgreeOn (s.run.unitElems s.params v)) (fun j => (rowProcess u s).total j - s.total j) s
      (rowProcess u s) := by
  have hchange := rowProcess_change u s
  refine .of_eq hchange.params hchange.run hchange.draws ⟨hchange.inputsKept, fun hid i hi => ?_⟩ fun j => by ring
  exact (rowProcess_changedIn hs.fits hu).readElem (unitElems_apart hs.fits hv hu hs.inks hkey.symm hid hi)

/-- What a work unit leaves in its own elements and adds to the totals does not depend on one of another key
before it. -/
theorem rowProcess_alike_after :
    Alike (AgreeOn (s.run.unitElems s.params v)) (fun j => (rowProcess u s).total j - s.total j) (rowProcess v s)
      (rowProcess v (rowProcess u s)) :=
  (rowProcess_alike_apart hs hu hv hkey).rowProcess (agreeOn_memSim _) hs.fits hv (subset_refl _)

omit hu hkey in
/-- The later of two work units leaves what it does not touch. -/
theorem rowProcess_after_kept {id : SpaceId} {i : Nat} (hi : i ∉ s.run.unitElems s.params v id) :
    (rowProcess v (rowProcess u s)).mem.readElem id i = (rowProcess u s).mem.readElem id i := by
  have hchange := rowProcess_change u s
  refine (rowProcess_changedIn (hs.of_change hchange).fits ?_).readElem ?_
  · rw [hchange.run]
    exact hv
  · rw [hchange.run, hchange.params]
    exact hi

/-- Work units of different keys may change places (R206). -/
theorem rowProcess_comm :
    Alike AgreeEverywhere 0 (rowProcess v (rowProcess u s)) (rowProcess u (rowProcess v s)) := by
  have hafter := rowProcess_alike_after hs hu hv hkey
  have hafter' := rowProcess_alike_after hs hv hu hkey.symm
  have huv := (rowProcess_change u s).trans (rowProcess_change v _)
  have hvu := (rowProcess_change v s).trans (rowProcess_change u _)
  refine .of_eq (hvu.params.trans huv.params.symm) (hvu.run.trans huv.run.symm) (hvu.draws.trans huv.draws.symm)
    ⟨?_, fun {id} hid {i} _ => ?_⟩ fun j => ?_
  · exact ⟨hvu.dot.trans huv.dot.symm, hvu.errtab.trans huv.errtab.symm, hvu.pvlut.trans huv.pvlut.symm,
      hvu.raster.trans huv.raster.symm⟩
  · by_cases hiu : i ∈ s.run.unitElems s.params u id
    · have hiv := unitElems_apart hs.fits hu hv hs.inks hkey hid hiu
      rw [hafter'.mem.elem hid hiu, rowProcess_after_kept hs hv hiv]
    · rw [rowProcess_after_kept hs hu hiu]
      by_cases hiv : i ∈ s.run.unitElems s.params v id
      · rw [hafter.mem.elem hid hiv]
      · rw [rowProcess_after_kept hs hv hiv, (rowProcess_changedIn hs.fits hu).readElem hiu,
          (rowProcess_changedIn hs.fits hv).readElem hiv]
  · rw [hafter.total, hafter'.total, Pi.zero_apply]
    ring

end

/-! Lists of work units. -/

theorem agreeEverywhere_memSim : MemSim AgreeEverywhere Set.univ := agreeOn_memSim _

theorem Alike.trans_agree {s t u : State} (h : Alike AgreeEverywhere 0 s t) (k : Alike AgreeEverywhere 0 t u) :
    Alike AgreeEverywhere 0 s u := Alike.trans (R := AgreeEverywhere) AgreeOn.trans h k

/-- A work unit may go before those of other keys. -/
theorem processUnits_move {l : List WorkUnit} {u : WorkUnit} {s : State} (hs : FreeOrder s) (hu : s.run.HasUnit u)
    (hl : ∀ v ∈ l, s.run.HasUnit v) (hkey : ∀ v ∈ l, unitKey v ≠ unitKey u) :
    Alike AgreeEverywhere 0 (processUnits l (rowProcess u s)) (rowProcess u (processUnits l s)) := by
  induction l generalizing s with
  | nil => exact .refl (AgreeOn.refl _) _
  | cons v l ih =>
    obtain ⟨hv, hl⟩ := List.forall_mem_cons.1 hl
    obtain ⟨hvkey, hlkey⟩ := List.forall_mem_cons.1 hkey
    have hchange := rowProcess_change v s
    have huv := (rowProcess_change u s).trans (rowProcess_change v _)
    have hswap := rowProcess_comm hs hu hv hvkey.symm
    have hrest := hswap.processUnits agreeEverywhere_memSim (l := l) (hs.of_change huv).fits (by rw [huv.run]; exact hl)
    have hmove := ih (hs.of_change hchange) (by rw [hchange.run]; exact hu) (by rw [hchange.run]; exact hl) hlkey
    exact hrest.trans_agree hmove

/-- Two lists that hold the units of each key in the same order leave the same (R204, R206). -/
theorem processUnits_alike_of_keys {l l' : List WorkUnit} {s : State} (hs : FreeOrder s)
    (hl' : ∀ v ∈ l', s.run.HasUnit v) (hkeys : ∀ k, unitsWithKey k l = unitsWithKey k l') :
    Alike AgreeEverywhere 0 (processUnits l s) (processUnits l' s) := by
  induction l generalizing s l' with
  | nil =>
    cases l' with
    | nil => exact .refl (AgreeOn.refl _) _
    | cons u l' =>
      have hnil := hkeys (unitKey u)
      rw [unitsWithKey_cons_self] at hnil
      cases hnil
  | cons u l ih =>
    have hfirst := hkeys (unitKey u)
    rw [unitsWithKey_cons_self] at hfirst
    obtain ⟨a, b, rfl, hakey, -, hb⟩ := List.filter_eq_cons_iff.1 hfirst.symm
    obtain ⟨ha, hub⟩ := List.forall_mem_append.1 hl'
    obtain ⟨hu, hb'⟩ := List.forall_mem_cons.1 hub
    have hchange := rowProcess_change u s
    have hrest : Alike AgreeEverywhere 0 (processUnits l (rowProcess u s))
        (processUnits (a ++ b) (rowProcess u s)) := by
      refine ih (hs.of_change hchange) ?_ fun k => ?_
      · rw [hchange.run]
        exact List.forall_mem_append.2 ⟨ha, hb'⟩
      · by_cases hk : unitKey u = k
        · subst hk
          have hnone : unitsWithKey (unitKey u) a = [] := List.filter_eq_nil_iff.2 hakey
          rw [unitsWithKey_append, hnone, List.nil_append]
          exact hb.symm
        · have hother := hkeys k
          rw [unitsWithKey_append, unitsWithKey_cons_of_ne hk, unitsWithKey_cons_of_ne hk] at hother
          rw [unitsWithKey_append]
          exact hother
    have hmove := processUnits_move hs hu ha fun v hv hkey => hakey v hv (decide_eq_true hkey)
    have hstep := hmove.processUnits agreeEverywhere_memSim (l := b)
      (hs.of_change (hchange.trans (processUnits_change a _))).fits
      (by rw [(hchange.trans (processUnits_change a _)).run]; exact hb')
    rw [processUnits_append] at hrest
    rw [processUnits_append]
    exact hrest.trans_agree hstep

end Sys2Proof.Machine
end

section
/-! What BAND changes (42_band_dispatch.md R200, 41_row_halftone.md R184): the elements of the run's work units, and,
with shared inks under several tasks, the PRINT elements of those inks (log 11). -/

namespace Sys2Proof.Machine

/-! The elements of the run. -/

/-- The elements of the run's work units (10_state.md R55 to R58). -/
def Run.bandElems (p : Config.Params) (r : Run) (id : SpaceId) : Set Nat :=
  {e | ∃ u, r.HasUnit u ∧ e ∈ r.unitElems p u id}

theorem Run.unitElems_subset_bandElems {p : Config.Params} {r : Run} {u : WorkUnit} (hu : r.HasUnit u)
    (id : SpaceId) : r.unitElems p u id ⊆ r.bandElems p id := fun _ he => ⟨u, hu, he⟩

theorem Memory.ChangedIn.mono {E E' : SpaceId → Set Nat} {m m' : Memory} (h : ChangedIn E m m')
    (hE : ∀ id, E id ⊆ E' id) : ChangedIn E' m m' := fun id a ha => h id a fun he => ha (hE id he)

/-- A work unit counts on its ink alone, whatever was counted before. -/
theorem rowProcess_tally_keysIn {K : Set Nat} {u : WorkUnit} {s : State}
    (hK : s.run.unitElems s.params u .tally ⊆ K) (h : s.task.tally.keysIn K) :
    (rowProcess u s).task.tally.keysIn K := by
  have hpixels : ∀ n, (unitPixel u n s).task.tally.keysIn K := by
    intro n
    induction n with
    | zero => exact h
    | succ n ih =>
      rw [unitPixel_succ, pixel_tally, unitPixel_ch, (unitPixel_change u n s).run]
      exact tallyBump_keysIn (hK ⟨_, BitVec.isLt _, rfl⟩) ih
  exact hpixels _

/-! The tasks (R200, R204). -/

/-- At the run `r` the memory differs from `m` in the run's elements alone, and the tallies list counters of its inks
alone. -/
structure Framed (p : Config.Params) (r : Run) (m : Memory) (s : State) : Prop where
  params : s.params = p
  run : s.run = r
  mem : Memory.ChangedIn (r.bandElems p) m s.mem
  tally : s.task.tally.keysIn (r.bandElems p .tally)
  finished : ∀ t ∈ s.finished, Tally.keysIn (r.bandElems p .tally) t

section
variable {p : Config.Params} {r : Run} {m : Memory} {s : State}

theorem Framed.rowProcess (h : Framed p r m s) (hfits : r.fits p = true) {u : WorkUnit} (hu : r.HasUnit u) :
    Framed p r m (rowProcess u s) := by
  obtain ⟨rfl, rfl, hmem, htally, hfinished⟩ := h
  have hchange := rowProcess_change u s
  have hsub := Run.unitElems_subset_bandElems (p := s.params) hu
  exact ⟨hchange.params, hchange.run, hmem.trans ((rowProcess_changedIn hfits hu).mono hsub),
    rowProcess_tally_keysIn (hsub .tally) htally, by rw [hchange.finished]; exact hfinished⟩

theorem Framed.runUnits (h : Framed p r m s) (hfits : r.fits p = true) {l : List WorkUnit}
    (hl : ∀ u ∈ l, r.HasUnit u) : Framed p r m (runUnits l s) := by
  induction l generalizing s with
  | nil => exact h
  | cons u l ih =>
    obtain ⟨hhead, htail⟩ := List.forall_mem_cons.1 hl
    have hstart : Framed p r m (s.withTask { s.task with units := l }) := { h with }
    exact ih (hstart.rowProcess hfits hhead) htail

theorem Framed.runTask (h : Framed p r m s) (hfits : r.fits p = true) {l : List WorkUnit}
    (hl : ∀ u ∈ l, r.HasUnit u) : Framed p r m (runTask l s) := by
  have hstart : Framed p r m (s.withTask { TaskRegs.idle with units := l }) := { h with tally := fun _ h => nomatch h }
  have hdone := hstart.runUnits hfits hl
  exact { hdone with
    tally := fun _ h => nomatch h
    finished := List.forall_mem_append.2 ⟨hdone.finished, List.forall_mem_singleton.2 hdone.tally⟩ }

theorem Framed.runTasks (h : Framed p r m s) (hfits : r.fits p = true) {ls : List (List WorkUnit)}
    (hls : ∀ l ∈ ls, ∀ u ∈ l, r.HasUnit u) : Framed p r m (ls.foldl (fun s l => Machine.runTask l s) s) := by
  induction ls generalizing s with
  | nil => exact h
  | cons l ls ih =>
    obtain ⟨hhead, htail⟩ := List.forall_mem_cons.1 hls
    exact ih (h.runTask hfits hhead) htail

/-! The join (R207). -/

theorem losePrint_changedIn {E : SpaceId → Set Nat} {d k n : Nat} (h : ∀ i < n, k * p.pbMaxPix + i ∈ E .print) :
    Memory.ChangedIn E m (losePrint p d k n m) := by
  induction n generalizing m with
  | zero => exact .refl E m
  | succ n ih =>
    exact (Memory.writeElem_changedIn m (h n (Nat.lt_succ_self n)) _).trans (ih fun i hi => h i (Nat.lt_succ_of_lt hi))

/-- The pixels of an ink the run uses are PRINT elements of its work units. -/
theorem Run.printPixel_mem_bandElems {k i : Nat} (hk : r.inkShared k = true) (hi : i < r.outw.toNat * r.outh.toNat) :
    k * p.pbMaxPix + i ∈ r.bandElems p .print := by
  have htwo := of_decide_eq_true hk
  obtain ⟨c, hc⟩ := List.exists_mem_of_length_pos (Nat.lt_of_lt_of_le Nat.zero_lt_two htwo)
  rw [List.mem_filter, List.mem_range, decide_eq_true_iff] at hc
  obtain ⟨hchan, rfl⟩ := hc
  have hw : 0 < r.outw.toNat := Nat.pos_of_ne_zero fun h => by simp [h] at hi
  refine ⟨(c, i / r.outw.toNat), ⟨hchan, Nat.div_lt_of_lt_mul hi⟩, i % r.outw.toNat, Nat.mod_lt _ hw, ?_⟩
  rw [printIndex, Nat.add_assoc, Nat.mul_comm (i / _), Nat.div_add_mod]

theorem Framed.loseSharedInks (h : Framed p r m s) : Framed p r m s.loseSharedInks := by
  obtain ⟨rfl, rfl, hmem, htally, hfinished⟩ := h
  unfold State.loseSharedInks
  split
  · refine ⟨rfl, rfl, hmem.trans (.foldl (fun k _ m => ?_) _), htally, hfinished⟩
    split
    · next hk => exact losePrint_changedIn fun i hi => Run.printPixel_mem_bandElems hk hi
    · exact .refl _ m
  · exact ⟨rfl, rfl, hmem, htally, hfinished⟩

theorem Framed.mergeTallies (h : Framed p r m s) : Memory.ChangedIn (r.bandElems p) m s.mergeTallies.mem :=
  h.mem.trans (.foldl (fun t ht m => mergeTally_changedIn (h.finished t ht) m) _)

end

/-! BAND (R200). -/

theorem Run.tasks_ne_nil {p : Config.Params} {r : Run} (hfits : r.fits p = true) : r.tasks ≠ [] := by
  obtain ⟨-, -, -, hchan, -⟩ := (Run.fits_iff p r).1 hfits
  have hrange : List.range r.c.toNat ≠ [] := fun h => by
    rw [List.range_eq_nil] at h
    omega
  rcases partition_cases r.par r.threads.toNat r.c.toNat r.outh.toNat with h | h | h | h <;> rw [Run.tasks, h]
  · intro hnil
    rw [List.flatMap_eq_nil_iff] at hnil
    cases hnil 0 (List.mem_range.2 hchan)
  · exact fun hnil => hrange (List.map_eq_nil_iff.1 hnil)
  · exact List.cons_ne_nil _ _
  · exact List.cons_ne_nil _ _

/-- A task begins with working registers of its own (R200; 10_state.md R46). -/
theorem runTasks_rowStart {ls : List (List WorkUnit)} (hls : ls ≠ []) (s : State) :
    ls.foldl (fun s l => runTask l s) (s.withFinished []) = ls.foldl (fun s l => runTask l s) (rowStart s) := by
  cases ls with
  | nil => exact absurd rfl hls
  | cons l ls => rfl

/-- BAND changes the run's elements alone (R184). -/
theorem bandEffect_changedIn {s : State} (hfits : s.run.fits s.params = true) :
    Memory.ChangedIn (s.run.bandElems s.params) s.mem (bandEffect s).mem := by
  have hstart : Framed s.params s.run s.mem (rowStart s) :=
    ⟨rfl, rfl, .refl _ _, (fun _ h => nomatch h), (fun _ h => nomatch h)⟩
  have hjoin := ((hstart.runTasks hfits s.run.tasks_hasUnit).loseSharedInks).mergeTallies
  rw [← runTasks_rowStart (Run.tasks_ne_nil hfits)] at hjoin
  exact hjoin

/-- `t` differs from `s` in what tasks work on alone: the memory, the working registers and the waiting tallies. -/
def TaskChange (s t : State) : Prop := t = { s with mem := t.mem, task := t.task, finished := t.finished }

theorem TaskChange.trans {s t u : State} (h : TaskChange s t) (k : TaskChange t u) : TaskChange s u := by
  unfold TaskChange at h k ⊢
  rw [h] at k
  exact k

theorem runTask_taskChange (l : List WorkUnit) (s : State) : TaskChange s (runTask l s) := by
  obtain ⟨t, ht, heq⟩ := runTask_spec l s
  rw [heq, TaskChange, ht.same]

theorem runTasks_taskChange (ls : List (List WorkUnit)) (s : State) :
    TaskChange s (ls.foldl (fun s l => runTask l s) s) := by
  induction ls generalizing s with
  | nil => rfl
  | cons l ls ih => exact (runTask_taskChange l s).trans (ih _)

theorem loseSharedInks_taskChange (s : State) : TaskChange s s.loseSharedInks := by
  unfold State.loseSharedInks
  split <;> rfl

/-- BAND completes with the memory and the draw counter changed, and leaves no task (log 14, log 16). -/
theorem bandEffect_complete_eq (s : State) (r : Bool) :
    (bandEffect s).complete r =
      { s with op := restingOp r, irqPend := s.irqPend ||| doneBit, mem := (bandEffect s).mem, task := .idle,
               finished := [], draws := s.draws + 1 } := by
  have htasks : TaskChange (s.withFinished []) _ :=
    (runTasks_taskChange s.run.tasks (s.withFinished [])).trans (loseSharedInks_taskChange _)
  rw [State.complete_eq, bandEffect]
  generalize (s.run.tasks.foldl (fun s l => runTask l s) (s.withFinished [])).loseSharedInks = t at htasks ⊢
  rw [TaskChange] at htasks
  rw [htasks]
  rfl

end Sys2Proof.Machine
end

section
/-! BAND as its work units (42_band_dispatch.md R200, R206, R211): the tasks one after another and the join leave what
the units of their lists leave, and by R204 the same whatever the partition. -/

namespace Sys2Proof.Machine

theorem SameData.refl (m : Memory) : SameData m m := fun _ _ => rfl

theorem SameData.trans {m m' m'' : Memory} (h : SameData m m') (k : SameData m' m'') : SameData m m'' :=
  fun id hid => (k id hid).trans (h id hid)

theorem Alike.trans_same {s t u : State} (h : Alike SameData 0 s t) (k : Alike SameData 0 t u) : Alike SameData 0 s u :=
  Alike.trans (R := SameData) SameData.trans h k

theorem Alike.toAgree {d : Nat → Word} {s t : State} (h : Alike SameData d s t) : Alike AgreeEverywhere d s t :=
  h.mono fun hm => hm.agreeOn _

/-! The tasks and the join (R200, R207). -/

section
variable {s t : State} {d : Nat → Word}

theorem Alike.runUnits (h : Alike SameData d s t) (hfits : s.run.fits s.params = true) {l : List WorkUnit}
    (hl : ∀ u ∈ l, s.run.HasUnit u) : Alike SameData d (Machine.processUnits l s) (Machine.runUnits l t) := by
  induction l generalizing s t with
  | nil => exact h
  | cons u l ih =>
    obtain ⟨hhead, htail⟩ := List.forall_mem_cons.1 hl
    have hstart : Alike SameData d s (t.withTask { t.task with units := l }) := { h with }
    have hchange := rowProcess_change u s
    refine ih (hstart.rowProcess sameData_memSim hfits hhead (Set.subset_univ _)) ?_ ?_
    · rw [hchange.run, hchange.params]
      exact hfits
    · rw [hchange.run]
      exact htail

/-- The end of a task moves its tally to those that wait (R200). -/
theorem withFinished_total (t : State) (j : Nat) :
    ((t.withFinished (t.finished ++ [t.task.tally])).withTask .idle).total j = t.total j := by
  rw [State.total, State.total, State.withTask_finished, State.withFinished_finished, List.map_append, List.sum_append,
    List.map_singleton, List.sum_singleton]
  change t.mem.readElem .tally j + _ + 0 = _
  ring

theorem Alike.runTask (h : Alike SameData d s t) (ht : t.task.tally = []) (hfits : s.run.fits s.params = true)
    {l : List WorkUnit} (hl : ∀ u ∈ l, s.run.HasUnit u) :
    Alike SameData d (Machine.processUnits l s) (Machine.runTask l t) := by
  have hstart : Alike SameData d s (t.withTask { TaskRegs.idle with units := l }) := by
    refine { h with total := fun j => ?_ }
    rw [State.withTask_total ht.symm, h.total]
  have hunits := hstart.runUnits hfits hl
  refine { hunits with total := fun j => ?_ }
  exact (withFinished_total _ j).trans (hunits.total j)

theorem Alike.runTasks (h : Alike SameData d s t) (ht : t.task.tally = []) (hfits : s.run.fits s.params = true)
    {ls : List (List WorkUnit)} (hls : ∀ l ∈ ls, ∀ u ∈ l, s.run.HasUnit u) :
    Alike SameData d (Machine.processUnits ls.flatten s) (ls.foldl (fun s l => Machine.runTask l s) t) := by
  induction ls generalizing s t with
  | nil => exact h
  | cons l ls ih =>
    obtain ⟨hhead, htail⟩ := List.forall_mem_cons.1 hls
    have hchange := processUnits_change l s
    rw [List.flatten_cons, processUnits_append]
    refine ih (h.runTask ht hfits hhead) rfl ?_ ?_
    · rw [hchange.run, hchange.params]
      exact hfits
    · rw [hchange.run]
      exact htail

/-- The join: all waiting tallies are in TALLY (R207). -/
theorem Alike.mergeTallies (h : Alike SameData d s t) : Alike SameData d s t.mergeTallies :=
  { h with
    mem := h.mem.trans (mergeTallies_get t)
    total := fun j => (mergeTallies_total t j).trans (h.total j) }

end

/-- The tasks, one after another, and the join (R200, R207). -/
def joinTasks (ls : List (List WorkUnit)) (s : State) : State :=
  (ls.foldl (fun s l => runTask l s) (s.withFinished [])).mergeTallies

theorem rowEffect_eq_joinTasks (ch y : Nat) (s : State) : rowEffect ch y s = (joinTasks [[(ch, y)]] s).nextDraw := rfl

theorem bandEffect_eq_joinTasks {s : State} (h : s.run.KeepsPrint) :
    bandEffect s = (joinTasks s.run.tasks s).nextDraw := by
  have hrun := (DataChange.foldl (fun s l => runTask_dataChange l s) s.run.tasks (s.withFinished [])).run
  have hkeep : (s.run.tasks.foldl (fun s l => runTask l s) (s.withFinished [])).run.KeepsPrint := by
    rw [hrun]
    exact h
  rw [bandEffect, State.loseSharedInks_of_keepsPrint hkeep]
  rfl

theorem joinTasks_alike {ls : List (List WorkUnit)} (hne : ls ≠ []) {s : State} (hfits : s.run.fits s.params = true)
    (hls : ∀ l ∈ ls, ∀ u ∈ l, s.run.HasUnit u) :
    Alike SameData 0 (processUnits ls.flatten (rowStart s)) (joinTasks ls s) := by
  rw [joinTasks, runTasks_rowStart hne]
  exact ((Alike.refl SameData.refl (rowStart s)).runTasks rfl hfits hls).mergeTallies

@[simp] theorem rowStart_params (s : State) : (rowStart s).params = s.params := rfl
@[simp] theorem rowStart_run (s : State) : (rowStart s).run = s.run := rfl
@[simp] theorem rowStart_mem (s : State) : (rowStart s).mem = s.mem := rfl

/-- Where a command's tasks begin nothing is counted yet. -/
theorem rowStart_total (s : State) (j : Nat) : (rowStart s).total j = s.mem.readElem .tally j := by
  rw [State.total, rowStart_mem]
  change _ + 0 + 0 = _
  rw [add_zero, add_zero]

theorem runTasks_tally {s : State} (h : s.task.tally = []) (ls : List (List WorkUnit)) :
    (ls.foldl (fun s l => runTask l s) s).task.tally = [] := by
  induction ls generalizing s with
  | nil => exact h
  | cons l ls ih => exact ih rfl

theorem joinTasks_finished (ls : List (List WorkUnit)) (s : State) : (joinTasks ls s).finished = [] := rfl

/-- After the join no tally waits and no task counts: the totals stand in TALLY. -/
theorem joinTasks_total {ls : List (List WorkUnit)} (hne : ls ≠ []) (s : State) (j : Nat) :
    (joinTasks ls s).total j = (joinTasks ls s).mem.readElem .tally j := by
  have htally : (joinTasks ls s).task.tally = [] := by
    rw [joinTasks, runTasks_rowStart hne]
    exact runTasks_tally rfl ls
  rw [State.total, htally, joinTasks_finished]
  simp

/-! BAND. -/

/-- The work units of the run, rows outermost and channels innermost (R203). -/
def Run.units (r : Run) : List WorkUnit := unitsOfRows r.c.toNat (List.range r.outh.toNat)

theorem Run.hasUnit_of_mem_units {r : Run} {u : WorkUnit} (h : u ∈ r.units) : r.HasUnit u :=
  (mem_unitsOfRows h).imp_right List.mem_range.1

theorem Run.tasks_of_sequential {r : Run} (h : r.par = false ∨ r.threads.toNat < 2) : r.tasks = [r.units] :=
  partition_of_sequential h _ _

/-- Every partition holds the units of each key in the order of the one task (R203, R204). -/
theorem Run.unitsWithKey_tasks (r : Run) (k : Nat × Nat) :
    unitsWithKey k r.units = unitsWithKey k r.tasks.flatten := by
  have hone := unitsWithKey_partition k false 0 r.c.toNat r.outh.toNat
  rw [partition_of_sequential (.inl rfl), List.flatten_singleton] at hone
  exact hone.trans (unitsWithKey_partition k r.par r.threads.toNat _ _).symm

/-- The tasks leave what the units of the one task leave, if no two share an ink or there is one (R206). -/
theorem processUnits_tasks {s : State} (hfits : s.run.fits s.params = true)
    (h : s.run.inksDistinct ∨ s.run.par = false ∨ s.run.threads.toNat < 2) :
    Alike AgreeEverywhere 0 (processUnits s.run.units s) (processUnits s.run.tasks.flatten s) := by
  rcases h with hinks | hone
  · refine processUnits_alike_of_keys ⟨hfits, hinks⟩ (fun u hu => ?_) s.run.unitsWithKey_tasks
    obtain ⟨l, hl, hul⟩ := List.mem_flatten.1 hu
    exact s.run.tasks_hasUnit l hl u hul
  · rw [Run.tasks_of_sequential hone, List.flatten_singleton]
    exact .refl (AgreeOn.refl _) _

theorem Run.keepsPrint_of {r : Run} (h : r.inksDistinct ∨ r.par = false ∨ r.threads.toNat < 2) : r.KeepsPrint :=
  h.elim Run.keepsPrint_of_inksDistinct Run.keepsPrint_of_sequential

/-- BAND leaves what the units of its task lists leave, and their totals in TALLY (R200, R207). -/
theorem bandEffect_leaves {s : State} (hfits : s.run.fits s.params = true) (h : s.run.KeepsPrint) :
    SameData (processUnits s.run.tasks.flatten (rowStart s)).mem (bandEffect s).mem ∧
      ∀ j, (bandEffect s).mem.readElem .tally j = (processUnits s.run.tasks.flatten (rowStart s)).total j := by
  have hne := Run.tasks_ne_nil hfits
  have hjoin := joinTasks_alike hne hfits s.run.tasks_hasUnit
  rw [bandEffect_eq_joinTasks h]
  refine ⟨hjoin.mem, fun j => ?_⟩
  rw [State.nextDraw_mem, ← joinTasks_total hne, hjoin.total]
  exact add_zero _

/-- BAND leaves what `RowProcess` of the run's work units leaves, and their totals in TALLY (R206). -/
theorem bandEffect_readElem {s : State} (hfits : s.run.fits s.params = true)
    (h : s.run.inksDistinct ∨ s.run.par = false ∨ s.run.threads.toNat < 2) :
    AgreeEverywhere (processUnits s.run.units (rowStart s)).mem (bandEffect s).mem ∧
      ∀ j, (bandEffect s).mem.readElem .tally j = (processUnits s.run.units (rowStart s)).total j := by
  obtain ⟨hdata, htally⟩ := bandEffect_leaves hfits (Run.keepsPrint_of h)
  have htasks := processUnits_tasks (s := rowStart s) hfits h
  refine ⟨htasks.mem.trans (hdata.agreeOn _), fun j => (htally j).trans ?_⟩
  exact (htasks.total j).trans (add_zero _)

/-- Settles O41: the frame of each space is its part of `Run.bandElems`; the order of the units by their keys. -/
theorem bandTouchesTheRunsCellsAlone : Obligations.BandTouchesTheRunsCellsAlone := by
  intro s c htakes hfits hwidth
  obtain ⟨w, hexec⟩ := exec_band_completes htakes hfits hwidth
  obtain ⟨hdot, herrtab, hpvlut, hraster⟩ := bandEffect_inputsKept (s.withOp (.busy true w c))
  have hchanged : Memory.ChangedIn (s.run.bandElems s.params) s.mem _ :=
    bandEffect_changedIn (s := s.withOp (.busy true w c)) hfits
  refine ⟨_, hexec, ?_, hdot, herrtab, hpvlut, hraster, fun a ha => ?_, fun a ha => ?_, fun a ha => ?_, fun a ha => ?_,
    fun h id i hid => ?_⟩
  · rw [bandEffect_complete_eq]
    rfl
  · refine hchanged .eb a ?_
    rintro ⟨u, hu, kr, col, hkr, hcol, heq⟩
    exact ha _ kr _ col (Nat.mod_lt _ Nat.zero_lt_two) hkr hu.1 hcol heq
  · refine hchanged .print a ?_
    rintro ⟨u, hu, x, hx, heq⟩
    exact ha _ x _ hu.1 hx hu.2 ((Nat.div_one a).symm.trans heq)
  · refine hchanged .preview a ?_
    rintro ⟨u, hu, x, hx, heq⟩
    exact ha _ x _ hu.1 hx hu.2 ((Nat.div_one a).symm.trans heq)
  · refine hchanged .tally a ?_
    rintro ⟨u, hu, d, hd, heq⟩
    exact ha _ d hu.1 hd heq
  · have hband := (bandEffect_readElem (s := s.withOp (.busy true w c)) hfits h).1
    have hstart : Alike SameData (fun j => (rowStart (s.withOp (.busy true w c))).total j - s.total j) s
        (rowStart (s.withOp (.busy true w c))) := .of_eq rfl rfl rfl (.refl _) fun j => by ring
    have hunits := hstart.processUnits sameData_memSim hfits fun u => s.run.hasUnit_of_mem_units (u := u)
    rw [State.complete_mem, hband.elem hid (Set.mem_univ i)]
    exact Memory.readElem_congr (hunits.mem id hid) i

/-- Settles O42: both BANDs leave what the run's work units leave in the order of one task. -/
theorem bandDoesNotDependOnThePartition : Obligations.BandDoesNotDependOnThePartition := by
  intro s c par threads htakes hfits hwidth hinks
  obtain ⟨w, hexec⟩ := exec_band_completes htakes hfits hwidth
  obtain ⟨w', hexec'⟩ := exec_band_completes
    (s := { s with run := { s.run with par := par, threads := threads } }) htakes hfits hwidth
  refine ⟨_, _, hexec, hexec', fun id i => ?_⟩
  obtain ⟨hdata, htally⟩ := bandEffect_readElem (s := s.withOp (.busy true w c)) hfits (.inl hinks)
  obtain ⟨hdata', htally'⟩ := bandEffect_readElem
    (s := State.withOp { s with run := { s.run with par := par, threads := threads } } (.busy true w' c)) hfits
    (.inl hinks)
  have hstart : Alike SameData 0 (rowStart (s.withOp (.busy true w c)))
      (rowStart (State.withOp { s with run := { s.run with par := par, threads := threads } } (.busy true w' c))) :=
    ⟨rfl, ⟨par, threads, rfl⟩, .inr rfl, .refl _, fun _ => (add_zero _).symm⟩
  have hunits := hstart.processUnits sameData_memSim hfits fun u => s.run.hasUnit_of_mem_units (u := u)
  rw [State.complete_mem, State.complete_mem]
  by_cases hid : id = .tally
  · subst hid
    rw [htally, htally']
    exact (hunits.total i).trans (add_zero _)
  · rw [hdata.elem hid (Set.mem_univ i), hdata'.elem hid (Set.mem_univ i)]
    exact Memory.readElem_congr (hunits.mem id hid) i

/-! ROW after ROW (R211). -/

/-- A joined state as the next command's tasks find it. With hysteresis 0 the draw counter is not read (R171, R182). -/
theorem Alike.completed {a t : State} (h : Alike SameData 0 a t) (hzero : a.run.h = 0#10)
    (htotal : ∀ j, t.total j = t.mem.readElem .tally j) (r : Bool) :
    Alike SameData 0 a (rowStart (t.nextDraw.complete r)) := by
  refine ⟨?_, ?_, .inl hzero, ?_, fun j => ?_⟩
  · rw [rowStart_params, State.complete_params, State.nextDraw_params, h.params]
  · rw [rowStart_run, State.complete_run, State.nextDraw_run]
    exact h.run
  · rw [rowStart_mem, State.complete_mem, State.nextDraw_mem]
    exact h.mem
  · rw [rowStart_total, State.complete_mem, State.nextDraw_mem, ← htotal, h.total]

/-- A ROW does what its work unit does. -/
theorem rowEffect_alike {a s : State} {ch y : Nat} (h : Alike SameData 0 a (rowStart s)) (hzero : s.run.h = 0#10)
    (hfits : s.run.fits s.params = true) (hu : s.run.HasUnit (ch, y)) :
    Alike SameData 0 (rowProcess (ch, y) a) (rowStart ((rowEffect ch y s).complete true)) := by
  have hne : [[(ch, y)]] ≠ [] := List.cons_ne_nil _ _
  have hunit := h.rowProcess sameData_memSim (h.fits hfits) (h.hasUnit hu) (Set.subset_univ _)
  have hjoin : Alike SameData 0 (rowProcess (ch, y) (rowStart s)) (joinTasks [[(ch, y)]] s) :=
    joinTasks_alike hne hfits (List.forall_mem_singleton.2 (List.forall_mem_singleton.2 hu))
  rw [rowEffect_eq_joinTasks]
  refine (hunit.trans_same hjoin).completed ?_ (joinTasks_total hne s) true
  rw [(rowProcess_change (ch, y) a).run]
  exact h.hyst.symm.trans hzero

/-- The ROW commands of a list do what its work units do. -/
theorem execAll_rows {l : List WorkUnit} {a s : State} (h : Alike SameData 0 a (rowStart s)) (hzero : s.run.h = 0#10)
    (hop : s.op = .ready) (hfits : s.run.fits s.params = true) (hwidth : s.cfg.outw = s.run.outw)
    (hl : ∀ u ∈ l, s.run.HasUnit u) :
    ∃ t, execAll (l.map (fun u => .row u.1 u.2)) s = .next t ∧ Alike SameData 0 (processUnits l a) (rowStart t) := by
  induction l generalizing a s with
  | nil => exact ⟨s, rfl, h⟩
  | cons u l ih =>
    obtain ⟨ch, y⟩ := u
    obtain ⟨hhead, htail⟩ := List.forall_mem_cons.1 hl
    obtain ⟨w, hexec⟩ := exec_row_completes (.inl ⟨hop, rfl⟩) hfits hhead hwidth
    have hstart : Alike SameData 0 a (rowStart (s.withOp (.busy true w s.cfg))) := { h with }
    have hrow := rowEffect_alike (s := s.withOp (.busy true w s.cfg)) hstart hzero hfits hhead
    obtain ⟨hparams, hcfg, hrun, -⟩ := rowEffect_dataChange ch y (s.withOp (.busy true w s.cfg))
    obtain ⟨t, ht, halike⟩ := ih hrow (by rw [State.complete_run, hrun]; exact hzero) rfl
      (by rw [State.complete_run, State.complete_params, hrun, hparams]; exact hfits)
      (by rw [State.complete_run, State.complete_cfg, hrun, hcfg]; exact hwidth)
      (by rw [State.complete_run, hrun]; exact htail)
    refine ⟨t, ?_, halike⟩
    rw [List.map_cons, execAll, hexec]
    exact ht

/-- Settles O43: with hysteresis 0 the list of BAND's one task and its ROW commands leave the same. -/
theorem bandOfOneTaskIsItsRows : Obligations.BandOfOneTaskIsItsRows := by
  intro s hop hfits hwidth hzero hone
  obtain ⟨w, hexec⟩ := exec_band_completes (.inl ⟨hop, rfl⟩) hfits hwidth
  obtain ⟨hband, htally⟩ :=
    bandEffect_leaves (s := s.withOp (.busy true w s.cfg)) hfits (Run.keepsPrint_of_sequential hone)
  rw [State.withOp_run, Run.tasks_of_sequential hone, List.flatten_singleton] at hband htally
  have hstart : Alike SameData 0 (rowStart (s.withOp (.busy true w s.cfg))) (rowStart s) :=
    .of_eq rfl rfl rfl (.refl _) fun _ => (add_zero _).symm
  obtain ⟨u, hrows, halike⟩ := execAll_rows hstart hzero hop hfits hwidth
    fun u => s.run.hasUnit_of_mem_units (u := u)
  have hsame : ∀ id, id ≠ .tally → (bandEffect (s.withOp (.busy true w s.cfg))).mem.get id = u.mem.get id :=
    fun id hid => (hband id hid).trans (halike.mem id hid).symm
  refine ⟨_, u, hexec, hrows, hsame .eb (by decide), hsame .print (by decide), hsame .preview (by decide), fun i => ?_⟩
  rw [State.complete_mem, htally]
  calc (processUnits s.run.units (rowStart (s.withOp (.busy true w s.cfg)))).total i
      = (rowStart u).total i := ((halike.total i).trans (add_zero _)).symm
    _ = u.mem.readElem .tally i := rowStart_total u i

end Sys2Proof.Machine
end

section
/-! The emit (43_output_encoder.md R220 to R224): which elements it writes, with what, and which counter it bumps. -/

namespace Sys2Proof.Machine

/-- A bump adds one to its own counter, listed or not, and to no other (R224; 10_state.md R46). -/
theorem tallyAt_tallyBump (j k : Nat) (t : Tally) :
    tallyAt j (tallyBump k t) = if j = k then tallyAt j t + 1#32 else tallyAt j t := by
  induction t with
  | nil => simp [tallyBump, tallyAt, eq_comm]
  | cons kn t ih =>
    rw [tallyBump]
    split
    · next hkey =>
      rw [tallyAt, tallyAt, hkey]
      by_cases hj : k = j
      · rw [if_pos hj, if_pos hj, if_pos hj.symm]
      · rw [if_neg hj, if_neg hj, if_neg (Ne.symm hj)]
    · next hkey =>
      rw [tallyAt, tallyAt, ih]
      by_cases hj : kn.1 = j
      · rw [if_pos hj, if_pos hj, if_neg (hj ▸ hkey)]
      · rw [if_neg hj, if_neg hj]

/-- The preview byte is the PVLUT entry of the dot code, whole (R222). -/
theorem pixelEmit_readElem_preview (s : State) :
    (pixelEmit s).mem.readElem .preview (previewIndex s.run s.task.x.toNat s.task.y s.task.ch) =
      s.mem.readElem .pvlut s.task.dot.toNat := by
  change ((s.mem.writeElem .print _ _).writeElem .preview _ _).readElem .preview _ = _
  rw [Memory.readElem_writeElem_same]
  exact s.mem.setWidth_readElem_byte _ rfl

/-- The elements an emit writes: the pixel's element of PRINT and of PREVIEW (10_state.md R56, R57). -/
def State.emitElems (s : State) : SpaceId → Set Nat
  | .print => {printIndex s.params s.run (s.run.inkOf s.task.ch) s.task.x.toNat s.task.y}
  | .preview => {previewIndex s.run s.task.x.toNat s.task.y s.task.ch}
  | _ => ∅

theorem pixelEmit_changedIn_emitElems (s : State) : Memory.ChangedIn s.emitElems s.mem (pixelEmit s).mem :=
  pixelEmit_changedIn rfl rfl

/-- Settles O33: what is written reads back, the frame is `State.emitElems`, and the counter is the bumped one. -/
theorem emitWritesPrintPreviewAndTally : Obligations.EmitWritesPrintPreviewAndTally := by
  intro s
  have hframe := pixelEmit_changedIn_emitElems s
  refine ⟨(pixelEmit_readElem_print s _).trans (if_pos rfl), pixelEmit_readElem_preview s, fun a ha => ?_,
    fun a ha => ?_, fun id => pixelEmit_get, fun j => ?_, rfl⟩
  · exact hframe .print a fun h => ha ((Nat.div_one a).symm.trans h)
  · exact hframe .preview a fun h => ha ((Nat.div_one a).symm.trans h)
  · rw [pixelEmit_tally]
    exact tallyAt_tallyBump j _ _

end Sys2Proof.Machine
end

section
/-! Counts of printed dots (43_output_encoder.md R224, R225): a work unit adds to the totals, under each dot code of its
ink, the number of PRINT elements of its row that it left with that code; the merge brings the totals into TALLY. -/

namespace Sys2Proof.Machine

/-! The merge (R225). -/

/-- A tally that lists a counter at most once adds to it what it counted. -/
theorem Tally.count_of_nodup {t : Tally} (h : (t.map Prod.fst).Nodup) (j : Nat) :
    Tally.count j t = tallyAt j t := by
  induction t with
  | nil => rfl
  | cons kn t ih =>
    obtain ⟨hnew, hrest⟩ := List.nodup_cons.1 h
    have htail := ih hrest
    rw [Tally.count_cons, tallyAt, htail]
    split
    · next hj =>
      have hnone : Tally.count j t = 0 := List.sum_eq_zero fun v hv => by
        obtain ⟨jn, hjn, rfl⟩ := List.mem_map.1 hv
        exact if_neg fun heq => hnew (List.mem_map.2 ⟨jn, hjn, heq.trans hj.symm⟩)
      rw [← htail, hnone, add_zero]
    · exact zero_add _

theorem mergeTallies_readElem_tally (s : State) (j : Nat) :
    s.mergeTallies.mem.readElem .tally j = s.mem.readElem .tally j + (s.finished.map (Tally.count j)).sum := by
  have htotal : s.mergeTallies.mem.readElem .tally j + 0 + s.task.tally.count j = s.total j := mergeTallies_total s j
  rw [add_zero] at htotal
  exact add_right_cancel htotal

/-! Counting dots. -/

/-- How many of the PRINT elements `l` hold the dot code `d`, modulo 2^32. -/
def Memory.dotCount (m : Memory) (d : Nat) (l : List Nat) : Word :=
  BitVec.ofNat 32 (l.countP (fun e => decide (m.readElem .print e = BitVec.ofNat 32 d)))

section
variable {m m' : Memory} {d : Nat} {l l' : List Nat}

@[simp] theorem Memory.dotCount_nil : m.dotCount d [] = 0 := rfl

theorem Memory.dotCount_append : m.dotCount d (l ++ l') = m.dotCount d l + m.dotCount d l' := by
  rw [dotCount, List.countP_append, BitVec.ofNat_add]
  rfl

theorem Memory.dotCount_singleton (e : Nat) :
    m.dotCount d [e] = if m.readElem .print e = BitVec.ofNat 32 d then 1#32 else 0 := by
  rw [dotCount, List.countP_singleton]
  simp only [decide_eq_true_eq]
  split <;> rfl

theorem Memory.dotCount_congr (h : ∀ e ∈ l, m'.readElem .print e = m.readElem .print e) :
    m'.dotCount d l = m.dotCount d l := by
  rw [dotCount, List.countP_congr fun e he => by rw [h e he]]
  rfl

theorem Memory.dotCount_perm (h : l.Perm l') : m.dotCount d l = m.dotCount d l' :=
  congrArg (BitVec.ofNat 32) (h.countP_eq _)

theorem Memory.dotCount_map_range (f : Nat → Nat) (n : Nat) :
    m.dotCount d ((List.range n).map f) =
      BitVec.ofNat 32 ((List.range n).countP (fun i => decide (m.readElem .print (f i) = BitVec.ofNat 32 d))) := by
  rw [dotCount, List.countP_map]
  rfl

end

/-- A dot code as a PRINT element shows it. -/
theorem word_eq_dotCode_iff (v : Word) {d : Nat} (hd : d < 256) : v = BitVec.ofNat 32 d ↔ d = v.toNat := by
  rw [← BitVec.toNat_inj, BitVec.toNat_ofNat, Nat.mod_eq_of_lt (by omega), eq_comm]

theorem Memory.readElem_print_lt (m : Memory) (e : Nat) : (m.readElem .print e).toNat < 256 :=
  Space.readBytes_toNat_lt _ _ _ _

theorem sum_range_indicator {n a : Nat} (h : a < n) :
    ((List.range n).map (fun d => if d = a then 1#32 else 0)).sum = 1#32 := by
  rw [List.sum_map_ite_eq, List.count_eq_one_of_mem List.nodup_range (List.mem_range.2 h)]
  simp

/-- Every element holds one of the 256 codes: the counts of the codes together count the elements. -/
theorem Memory.dotCount_sum (m : Memory) (l : List Nat) :
    ((List.range 256).map (fun d => m.dotCount d l)).sum = BitVec.ofNat 32 l.length := by
  induction l with
  | nil =>
    refine List.sum_eq_zero fun v hv => ?_
    obtain ⟨d, -, rfl⟩ := List.mem_map.1 hv
    exact Memory.dotCount_nil
  | cons e l ih =>
    have hone : ((List.range 256).map (fun d => m.dotCount d [e])).sum = 1#32 := by
      have hcode : ∀ d ∈ List.range 256, m.dotCount d [e] = if d = (m.readElem .print e).toNat then 1#32 else 0 :=
        fun d hd => by
          rw [dotCount_singleton]
          simp only [word_eq_dotCode_iff _ (List.mem_range.1 hd)]
      rw [List.map_congr_left hcode, sum_range_indicator (m.readElem_print_lt e)]
    have hsplit : ∀ d ∈ List.range 256, m.dotCount d (e :: l) = m.dotCount d [e] + m.dotCount d l :=
      fun d _ => dotCount_append (l := [e])
    rw [List.map_congr_left hsplit, List.sum_map_add, hone, ih, List.length_cons, Nat.add_comm, BitVec.ofNat_add]

/-! A work unit. -/

/-- The counter of a code and ink names both (10_state.md R58). -/
theorem tallyIndex_inj {k k' d d' : Nat} (hd : d < 256) (hd' : d' < 256) :
    tallyIndex k d = tallyIndex k' d' ↔ k = k' ∧ d = d' :=
  ⟨mul_add_inj hd hd', fun ⟨hk, hcode⟩ => by rw [hk, hcode]⟩

/-- A pixel adds its dot to the totals (R224). -/
theorem pixel_total (s : State) (j : Nat) :
    (pixel s).total j =
      s.total j +
        if tallyIndex (s.run.inkOf s.task.ch) (pixelDecide s).task.dot.toNat = j then 1#32 else 0 := by
  have hchange := pixel_change s
  rw [State.total, State.total, hchange.finished, pixel_tally, Tally.count_tallyBump,
    Memory.readElem_congr (id := .tally) hchange.tally, add_assoc _ (Tally.count j _)]

/-- The PRINT elements of ink `k` that the first `n` pixels of a work unit print, in scan order. -/
def Run.scannedElems (p : Config.Params) (r : Run) (k : Nat) (u : WorkUnit) (n : Nat) : List Nat :=
  if r.inkOf u.1 = k then (List.range n).map (fun i => printIndex p r k (r.scanColumn u.2 i) u.2) else []

/-- The PRINT elements of ink `k` in the row of a work unit, none if it prints on another ink. -/
def Run.rowElems (p : Config.Params) (r : Run) (k : Nat) (u : WorkUnit) : List Nat :=
  if r.inkOf u.1 = k then (List.range r.outw.toNat).map (fun x => printIndex p r k x u.2) else []

theorem Run.rowElems_of_ink (p : Config.Params) {r : Run} {k : Nat} {u : WorkUnit} (h : r.inkOf u.1 = k) :
    r.rowElems p k u = (List.range r.outw.toNat).map (fun x => printIndex p r k x u.2) := if_pos h

theorem Run.rowElems_of_ne (p : Config.Params) {r : Run} {k : Nat} {u : WorkUnit} (h : r.inkOf u.1 ≠ k) :
    r.rowElems p k u = [] := if_neg h

theorem Run.mem_rowElems {p : Config.Params} {r : Run} {k : Nat} {u : WorkUnit} {e : Nat}
    (h : e ∈ r.rowElems p k u) : ∃ x, x < r.outw.toNat ∧ e = printIndex p r (r.inkOf u.1) x u.2 := by
  by_cases hink : r.inkOf u.1 = k
  · rw [rowElems_of_ink p hink] at h
    obtain ⟨x, hx, rfl⟩ := List.mem_map.1 h
    exact ⟨x, List.mem_range.1 hx, by rw [hink]⟩
  · rw [rowElems_of_ne p hink] at h
    cases h

/-- Every column of the row is scanned once (41_row_halftone.md R163, R164). -/
theorem Run.scannedElems_perm (p : Config.Params) (r : Run) (k : Nat) (u : WorkUnit) :
    (r.scannedElems p k u r.outw.toNat).Perm (r.rowElems p k u) := by
  have hcolumns : ((List.range r.outw.toNat).map (r.scanColumn u.2)).Perm (List.range r.outw.toNat) := by
    refine (List.perm_ext_iff_of_nodup (List.nodup_range.map_on fun i hi j hj => ?_) List.nodup_range).2 fun x => ?_
    · exact Run.scanColumn_inj (List.mem_range.1 hi) (List.mem_range.1 hj)
    · rw [List.mem_map, List.mem_range]
      constructor
      · rintro ⟨i, hi, rfl⟩
        exact Run.scanColumn_lt (List.mem_range.1 hi)
      · intro hx
        obtain ⟨i, hi, heq⟩ := Run.exists_scanColumn u.2 hx
        exact ⟨i, List.mem_range.2 hi, heq⟩
  unfold Run.scannedElems Run.rowElems
  split
  · have helems := hcolumns.map fun x => printIndex p r k x u.2
    rw [List.map_map] at helems
    exact helems
  · exact .refl _

section
variable {s : State} {u : WorkUnit} {n : Nat}

theorem unitPixel_succ_readElem_print (hn : n < s.run.outw.toNat) (e : Nat) :
    (unitPixel u (n + 1) s).mem.readElem .print e =
      if e = printIndex s.params s.run (s.run.inkOf u.1) (s.run.scanColumn u.2 n) u.2 then
        (pixelDecide (unitPixel u n s)).task.dot.setWidth 32
      else (unitPixel u n s).mem.readElem .print e := by
  have hchange := unitPixel_change u n s
  rw [unitPixel_succ, pixel_readElem_print, hchange.run, hchange.params, unitPixel_ch, unitPixel_y, unitPixel_x u hn,
    Int.toNat_natCast]

/-- A pixel counts once among the elements scanned so far, under its own ink and code; the earlier pixels keep what
they printed. -/
theorem unitPixel_succ_dotCount (hn : n < s.run.outw.toNat) (k : Nat) {d : Nat} (hd : d < 256) :
    (unitPixel u (n + 1) s).mem.dotCount d (s.run.scannedElems s.params k u (n + 1)) =
      (unitPixel u n s).mem.dotCount d (s.run.scannedElems s.params k u n) +
        if tallyIndex (s.run.inkOf u.1) (pixelDecide (unitPixel u n s)).task.dot.toNat = tallyIndex k d then 1#32
        else 0 := by
  have hdot := (pixelDecide (unitPixel u n s)).task.dot.isLt
  simp only [tallyIndex_inj hdot hd, Run.scannedElems]
  by_cases hink : s.run.inkOf u.1 = k
  · subst hink
    have hearlier : ∀ e ∈ (List.range n).map
        (fun i => printIndex s.params s.run (s.run.inkOf u.1) (s.run.scanColumn u.2 i) u.2),
        (unitPixel u (n + 1) s).mem.readElem .print e = (unitPixel u n s).mem.readElem .print e := by
      intro e he
      obtain ⟨i, hi, rfl⟩ := List.mem_map.1 he
      have hin := List.mem_range.1 hi
      rw [unitPixel_succ_readElem_print hn, if_neg fun heq => ?_]
      exact hin.ne (Run.scanColumn_inj (hin.trans hn) hn (Nat.add_left_cancel heq))
    have hcode : (pixelDecide (unitPixel u n s)).task.dot.setWidth 32 = BitVec.ofNat 32 d ↔
        (pixelDecide (unitPixel u n s)).task.dot.toNat = d := by
      rw [word_eq_dotCode_iff _ hd, BitVec.toNat_setWidth_of_le (by decide), eq_comm]
    simp only [if_true, true_and]
    rw [List.range_succ, List.map_append, List.map_singleton, Memory.dotCount_append, Memory.dotCount_congr hearlier,
      Memory.dotCount_singleton, unitPixel_succ_readElem_print hn, if_pos rfl]
    simp only [hcode]
  · simp [hink]

/-- The pixels of a work unit up to one of them add to the totals what they printed. -/
theorem unitPixel_total (hn : n ≤ s.run.outw.toNat) (k : Nat) {d : Nat} (hd : d < 256) :
    (unitPixel u n s).total (tallyIndex k d) =
      s.total (tallyIndex k d) + (unitPixel u n s).mem.dotCount d (s.run.scannedElems s.params k u n) := by
  induction n with
  | zero =>
    have hnone : s.run.scannedElems s.params k u 0 = [] := by simp [Run.scannedElems]
    rw [hnone, Memory.dotCount_nil, add_zero]
    rfl
  | succ n ih =>
    rw [unitPixel_succ_dotCount hn k hd, unitPixel_succ, pixel_total, ih (Nat.le_of_succ_le hn),
      (unitPixel_change u n s).run, unitPixel_ch, add_assoc]

end

/-- A work unit adds to the totals what it printed on its row: one dot per pixel (R224). -/
theorem rowProcess_total (u : WorkUnit) (s : State) (k : Nat) {d : Nat} (hd : d < 256) :
    (rowProcess u s).total (tallyIndex k d) =
      s.total (tallyIndex k d) + (rowProcess u s).mem.dotCount d (s.run.rowElems s.params k u) := by
  rw [rowProcess_eq_unitPixel, unitPixel_total (Nat.le_refl _) k hd,
    Memory.dotCount_perm (s.run.scannedElems_perm s.params k u)]

/-! ROW (41_row_halftone.md R160). -/

/-- ROW adds to TALLY what its work unit printed. -/
theorem rowEffect_tally (ch y : Nat) (s : State) (k : Nat) {d : Nat} (hd : d < 256) :
    (rowEffect ch y s).mem.readElem .tally (tallyIndex k d) =
      s.mem.readElem .tally (tallyIndex k d) +
        (rowEffect ch y s).mem.dotCount d (s.run.rowElems s.params k (ch, y)) := by
  have hprint : ∀ e, (rowEffect ch y s).mem.readElem .print e =
      (rowProcess (ch, y) (rowStart s)).mem.readElem .print e :=
    Memory.readElem_congr (by rw [rowEffect_mem, mergeTally_get _ _ _ (by decide)])
  have hfinished : (rowProcess (ch, y) (rowStart s)).finished = [] := (rowProcess_change (ch, y) (rowStart s)).finished
  calc (rowEffect ch y s).mem.readElem .tally (tallyIndex k d)
      = (rowProcess (ch, y) (rowStart s)).total (tallyIndex k d) := by
        rw [rowEffect_mem, mergeTally_readElem, State.total, hfinished]
        simp
    _ = s.mem.readElem .tally (tallyIndex k d) +
          (rowProcess (ch, y) (rowStart s)).mem.dotCount d (s.run.rowElems s.params k (ch, y)) := by
        rw [rowProcess_total (ch, y) (rowStart s) k hd, rowStart_total, rowStart_run, rowStart_params]
    _ = _ := by rw [Memory.dotCount_congr fun e _ => hprint e]

/-- Over all codes of its ink ROW adds one dot per pixel of its row. -/
theorem rowEffect_tally_sum (ch y : Nat) (s : State) :
    ((List.range 256).map
        (fun d => (rowEffect ch y s).mem.readElem .tally (tallyIndex (s.run.inkOf ch) d))).sum =
      ((List.range 256).map (fun d => s.mem.readElem .tally (tallyIndex (s.run.inkOf ch) d))).sum +
        BitVec.ofNat 32 s.run.outw.toNat := by
  have hlength : (s.run.rowElems s.params (s.run.inkOf ch) (ch, y)).length = s.run.outw.toNat := by
    rw [Run.rowElems_of_ink s.params (r := s.run) (u := (ch, y)) rfl, List.length_map, List.length_range]
  rw [List.map_congr_left fun d hd => rowEffect_tally ch y s (s.run.inkOf ch) (List.mem_range.1 hd), List.sum_map_add,
    Memory.dotCount_sum, hlength]

/-! BAND (42_band_dispatch.md R200). -/

/-- With distinct inks a work unit leaves what another one printed. -/
theorem rowProcess_keeps_rowElems {s : State} (hs : FreeOrder s) {u v : WorkUnit} (hu : s.run.HasUnit u)
    (hv : s.run.HasUnit v) (hne : u ≠ v) {k e : Nat} (he : e ∈ s.run.rowElems s.params k u) :
    (rowProcess v s).mem.readElem .print e = s.mem.readElem .print e := by
  refine (rowProcess_changedIn hs.fits hv).readElem ?_
  rintro ⟨x', hx', heq⟩
  obtain ⟨x, hx, rfl⟩ := Run.mem_rowElems he
  exact hne (unit_eq_of_printIndex hs.fits hu hv hs.inks hx hx' heq)

/-- Work units, each done once, add to the totals what they printed together. -/
theorem processUnits_total {s : State} (hs : FreeOrder s) {l : List WorkUnit} (hl : ∀ u ∈ l, s.run.HasUnit u)
    (hnodup : l.Nodup) (k : Nat) {d : Nat} (hd : d < 256) :
    (processUnits l s).total (tallyIndex k d) =
      s.total (tallyIndex k d) + (processUnits l s).mem.dotCount d (l.flatMap (s.run.rowElems s.params k)) := by
  induction l using List.reverseRecOn with
  | nil => exact (add_zero _).symm
  | append_singleton l v ih =>
    obtain ⟨hunits, hv⟩ := List.forall_mem_append.1 hl
    obtain ⟨hnodup, -, hapart⟩ := List.nodup_append.1 hnodup
    have hchange := processUnits_change l s
    have hkept : ∀ e ∈ l.flatMap (s.run.rowElems s.params k),
        (rowProcess v (processUnits l s)).mem.readElem .print e = (processUnits l s).mem.readElem .print e := by
      intro e he
      obtain ⟨u, hu, heu⟩ := List.mem_flatMap.1 he
      rw [← hchange.run, ← hchange.params] at heu
      refine rowProcess_keeps_rowElems (hs.of_change hchange) ?_ ?_ (hapart u hu v (List.mem_singleton_self v)) heu
      · rw [hchange.run]
        exact hunits u hu
      · rw [hchange.run]
        exact hv v (List.mem_singleton_self v)
    have hlast : processUnits (l ++ [v]) s = rowProcess v (processUnits l s) := processUnits_append l [v] s
    rw [hlast, rowProcess_total v _ k hd, ih hunits hnodup, hchange.run, hchange.params, List.flatMap_append,
      List.flatMap_singleton, Memory.dotCount_append, Memory.dotCount_congr hkept, add_assoc]

/-- The run's work units are listed once each (R205). -/
theorem Run.units_nodup (r : Run) : r.units.Nodup := by
  obtain ⟨hnodup, -⟩ := partitionCoversEveryUnitOnce false 0 r.c.toNat r.outh.toNat
  rw [partition_of_sequential (.inl rfl), List.flatten_singleton] at hnodup
  exact hnodup

/-- The rows of one ink, one after another, are its pixels (10_state.md R56). -/
theorem flatMap_rows_eq_pixels (p : Config.Params) (r : Run) (k h : Nat) :
    (List.range h).flatMap (fun y => (List.range r.outw.toNat).map (fun x => printIndex p r k x y)) =
      (List.range (r.outw.toNat * h)).map (fun i => k * p.pbMaxPix + i) := by
  induction h with
  | zero => rfl
  | succ h ih =>
    rw [List.range_succ, List.flatMap_append, List.flatMap_singleton, ih, Nat.mul_succ, List.range_add,
      List.map_append, List.map_map]
    congr 1
    refine List.map_congr_left fun x _ => ?_
    rw [printIndex, Function.comp_apply, Nat.mul_comm h, Nat.add_assoc]

/-- With distinct inks the rows of the run on the ink of a channel are those of that channel: every pixel of the ink. -/
theorem Run.flatMap_units_rowElems_of_ink {r : Run} (hinks : r.inksDistinct) (p : Config.Params) {ch : Nat}
    (hch : ch < r.c.toNat) :
    r.units.flatMap (r.rowElems p (r.inkOf ch)) =
      (List.range (r.outw.toNat * r.outh.toNat)).map (fun i => r.inkOf ch * p.pbMaxPix + i) := by
  have hrow : ∀ y, ((List.range r.c.toNat).map (fun c => (c, y))).flatMap (r.rowElems p (r.inkOf ch)) =
      (List.range r.outw.toNat).map (fun x => printIndex p r (r.inkOf ch) x y) := by
    intro y
    have hone : ∀ c ∈ List.range r.c.toNat, r.rowElems p (r.inkOf ch) (c, y) =
        if c = ch then (List.range r.outw.toNat).map (fun x => printIndex p r (r.inkOf ch) x y) else [] := by
      intro c hc
      have hiff : r.inkOf c = r.inkOf ch ↔ c = ch := ⟨hinks c ch (List.mem_range.1 hc) hch, congrArg r.inkOf⟩
      simp only [Run.rowElems, hiff]
    rw [List.flatMap_map, List.flatMap_congr hone, flatMap_range_ite, if_pos hch]
  rw [← flatMap_rows_eq_pixels, Run.units, unitsOfRows, List.flatMap_assoc]
  exact List.flatMap_congr fun y _ => hrow y

/-- On an ink no channel uses there is no row. -/
theorem Run.flatMap_units_rowElems_of_unused {r : Run} (p : Config.Params) {k : Nat}
    (h : ¬ ∃ ch, ch < r.c.toNat ∧ r.inkOf ch = k) : r.units.flatMap (r.rowElems p k) = [] :=
  List.flatMap_eq_nil_iff.2 fun u hu =>
    Run.rowElems_of_ne p fun hink => h ⟨u.1, (Run.hasUnit_of_mem_units hu).1, hink⟩

/-- BAND adds to TALLY what the run's work units printed. -/
theorem bandEffect_tally {s : State} (hs : FreeOrder s) (k : Nat) {d : Nat} (hd : d < 256) :
    (bandEffect s).mem.readElem .tally (tallyIndex k d) =
      s.mem.readElem .tally (tallyIndex k d) +
        (bandEffect s).mem.dotCount d (s.run.units.flatMap (s.run.rowElems s.params k)) := by
  obtain ⟨hdata, htally⟩ := bandEffect_readElem hs.fits (.inl hs.inks)
  have hstart : FreeOrder (rowStart s) := ⟨hs.fits, hs.inks⟩
  have hunits := processUnits_total hstart (fun u => Run.hasUnit_of_mem_units) (rowStart s).run.units_nodup k hd
  rw [rowStart_total, rowStart_run, rowStart_params] at hunits
  rw [htally, hunits, Memory.dotCount_congr fun e _ => hdata.elem (id := .print) (by decide) trivial]

/-- Settles O35: the merge adds the waiting counts; ROW and BAND add what their work units printed. -/
theorem talliesCountThePrintedDots : Obligations.TalliesCountThePrintedDots := by
  refine ⟨fun s hnodup => ⟨fun j => ?_, mergeTallies_get s, rfl⟩, fun s ch y c htakes hfits hch hy hwidth => ?_,
    fun s c htakes hfits hwidth hinks => ?_⟩
  · rw [mergeTallies_readElem_tally, List.map_congr_left fun t ht => Tally.count_of_nodup (hnodup t ht) j]
  · obtain ⟨w, hexec⟩ := exec_row_completes htakes hfits ⟨hch, hy⟩ hwidth
    have hsum := rowEffect_tally_sum ch y (s.withOp (.busy true w c))
    simp only [tallyIndex] at hsum
    refine ⟨_, hexec, fun k d _ hd => ?_, ?_⟩
    · rw [State.complete_mem]
      refine (rowEffect_tally ch y (s.withOp (.busy true w c)) k hd).trans (congrArg _ ?_)
      rw [State.withOp_run, State.withOp_params]
      split
      · next hink =>
        rw [Run.rowElems_of_ink s.params (u := (ch, y)) hink.symm]
        exact Memory.dotCount_map_range _ _
      · next hink =>
        rw [Run.rowElems_of_ne s.params (u := (ch, y)) (Ne.symm hink)]
        exact Memory.dotCount_nil
    · rw [State.complete_mem]
      exact hsum
  · obtain ⟨w, hexec⟩ := exec_band_completes htakes hfits hwidth
    have hs : FreeOrder (s.withOp (.busy true w c)) := ⟨hfits, hinks⟩
    refine ⟨_, hexec, fun k d _ hd => ?_⟩
    rw [State.complete_mem]
    refine (bandEffect_tally hs k hd).trans (congrArg _ ?_)
    rw [State.withOp_run, State.withOp_params]
    split
    · next hused =>
      obtain ⟨ch, hch, rfl⟩ := hused
      rw [Run.flatMap_units_rowElems_of_ink hinks s.params hch]
      exact Memory.dotCount_map_range _ _
    · next hunused =>
      rw [Run.flatMap_units_rowElems_of_unused s.params hunused]
      exact Memory.dotCount_nil

end Sys2Proof.Machine
end

section
/-! The errors (60_exceptions.md): what a write to CMD does in each operating state (R231, R241), how CLRERR ends
(R240), and everything a step can do to the operating state, from which it follows how ERROR is entered and left. -/

namespace Sys2Proof.Machine

/-! The engine's turn (R232, R248). -/

/-- The engine's turn on a legal word carries its command out. -/
theorem engineTurn_legal {s : State} {r : Bool} {w : Word} {c : ConfigRegs} {i : Instr} (hop : s.op = .busy r w c)
    (h : decode w = .ok i) : engineTurn s = exec i s := by
  simp [engineTurn, hop, h]

/-- Without an accepted word the engine does nothing. -/
theorem engineTurn_of_not_busy {s : State} (h : s.busyFlag = false) : engineTurn s = .next s := by
  unfold engineTurn
  split
  · next hop => simp [State.busyFlag, hop] at h
  · rfl

/-- Settles O6: the two forms of the engine's turn, BUSY and not. -/
theorem stepRunsTheAcceptedCommand : Obligations.StepRunsTheAcceptedCommand := by
  refine ⟨fun s r w c i hop hdecode => ⟨fun hev => ?_, fun rest hev => ?_⟩,
    fun s hidle => ⟨fun hev => ?_, fun rest hev => ?_⟩⟩
  · exact (step_of_no_event hev).trans (engineTurn_legal hop hdecode)
  · exact (step_engine hev).trans (engineTurn_legal (s := s.withEvents rest) hop hdecode)
  · exact (step_of_no_event hev).trans (engineTurn_of_not_busy hidle)
  · exact (step_engine hev).trans (engineTurn_of_not_busy (s := s.withEvents rest) hidle)

/-! A write to CMD, by operating state (R231). -/

section
variable {s : State}

/-- BUSY ignores every word as a violation (R241). -/
theorem writeCmd_of_busy {r : Bool} {w : Word} {c : ConfigRegs} (h : s.op = .busy r w c) (v : Word) :
    s.writeCmd v = s.violate := by
  simp [State.writeCmd, h]

/-- ERROR accepts CLRERR's word. -/
theorem writeCmd_clrerr_of_error {e : ErrCode} (h : s.op = .error e) :
    s.writeCmd (encode .clrerr) = { s with op := .busy false (encode .clrerr) s.cfg } := by
  simp [State.writeCmd, State.accept_eq, State.readyFlag, h]

/-- ERROR ignores every other word as a violation (R241). -/
theorem writeCmd_other_of_error {e : ErrCode} (h : s.op = .error e) {v : Word} (hv : v ≠ encode .clrerr) :
    s.writeCmd v = s.violate := by
  simp [State.writeCmd, h, hv]

/-- IDLE and READY accept every word, a legal one or not (R232). -/
theorem writeCmd_of_resting {r : Bool} (h : s.op = restingOp r) (v : Word) :
    s.writeCmd v = { s with op := .busy r v s.cfg } := by
  cases r <;> simp [State.writeCmd, State.accept_eq, State.readyFlag, h]

theorem readyFlag_of_error {e : ErrCode} (h : s.op = .error e) : s.readyFlag = false := by
  simp [State.readyFlag, h]

end

theorem step_write_cmd {s : State} {v : Word} {rest : List Event} (h : s.events = .write (regAddr .cmd) v :: rest) :
    step s = .next ((s.withEvents rest).writeCmd v) := by
  rw [step_write h, State.busWrite, regAt_regAddr]
  rfl

/-- Settles O7: the write is `writeCmd`, and each clause is its branch of one operating state. -/
theorem cmdWriteFollowsTheOperatingState : Obligations.CmdWriteFollowsTheOperatingState := by
  intro s v rest hev
  rw [step_write_cmd hev]
  refine ⟨fun r w c hop => ?_, fun e hop hv => ?_, fun e hop hv => ?_, fun hop => ?_, fun hop => ?_⟩
  · exact congrArg _ (writeCmd_of_busy (s := s.withEvents rest) hop v)
  · subst hv
    exact congrArg _ (writeCmd_clrerr_of_error (s := s.withEvents rest) hop)
  · exact congrArg _ (writeCmd_other_of_error (s := s.withEvents rest) hop hv)
  · exact congrArg _ (writeCmd_of_resting (s := s.withEvents rest) (r := false) hop v)
  · exact congrArg _ (writeCmd_of_resting (s := s.withEvents rest) (r := true) hop v)

/-! CLRERR (R240). -/

/-- A BUSY engine completes CLRERR with READY as it was; leaving the error state changes nothing of a state that is not
in it. -/
theorem exec_clrerr_of_busy {s : State} {r : Bool} {w : Word} {c : ConfigRegs} (h : s.op = .busy r w c) :
    exec .clrerr s = .next (s.complete r) := by
  have hready : s.readyFlag = r := by simp [State.readyFlag, h]
  rw [exec, execClrerr, issue_busy _ _ _ _ _ _ h, State.leaveError_readyFlag, hready]
  rfl

/-- ERROR accepts CLRERR (R231). -/
theorem exec_clrerr_of_error {s : State} {e : ErrCode} (h : s.op = .error e) :
    exec .clrerr s = exec .clrerr (s.accept (encode .clrerr)) := by
  simp [exec, execClrerr, issue, h]

/-- Settles O18: the accepted CLRERR completes; the READY bit it was accepted with is 0 from ERROR. -/
theorem clrerrLeavesTheErrorState : Obligations.ClrerrLeavesTheErrorState := by
  refine ⟨fun s e hop => ?_, fun s r c htakes => ?_⟩
  · rw [exec_clrerr_of_error hop, exec_clrerr_of_busy (s.accept_op _), readyFlag_of_error hop]
    rfl
  · obtain ⟨w, hbusy⟩ := exec_of_takes .clrerr htakes
    rw [hbusy, exec_clrerr_of_busy (State.withOp_op s _)]
    rfl

/-! Everything a step can do to the operating state. -/

/-- The engine accepts the word `v` of the host's next access; in ERROR that is CLRERR's word (R231). -/
structure Accepts (s t : State) (v : Word) : Prop where
  next : s.events.head? = some (.write (regAddr .cmd) v)
  word : s.errFlag = true → v = encode .clrerr
  op : t.op = .busy s.readyFlag v s.cfg

/-- A step keeps the operating state, accepts a command, resets the machine, or carries the accepted command out. -/
inductive OpStep (s t : State) : Prop where
  | kept (hop : t.op = s.op)
  | accepted (v : Word) (h : Accepts s t v)
  | reset (hnext : s.resetNext) (hop : t.op = .idle)
  | turn (hbusy : s.busyFlag = true) (h : CarriedOut (s.withEvents s.events.tail) t)

theorem engineTurn_opStep {s t : State} (h : engineTurn (s.withEvents s.events.tail) = .next t) : OpStep s t := by
  cases hbusy : s.busyFlag with
  | false =>
    rw [engineTurn_of_not_busy (s := s.withEvents s.events.tail) hbusy] at h
    cases h
    exact .kept rfl
  | true =>
    rcases engineTurn_cases h with ⟨hidle, -⟩ | hdone
    · exact Bool.noConfusion (hbusy.symm.trans hidle)
    · exact .turn hbusy hdone

theorem softReset_op (s : State) : s.softReset.op = .idle := by
  unfold State.softReset
  split <;> rfl

theorem writeCmd_op_cases (s : State) (v : Word) :
    (s.writeCmd v).op = s.op ∨
      (s.errFlag = true → v = encode .clrerr) ∧ (s.writeCmd v).op = .busy s.readyFlag v s.cfg := by
  cases herr : s.errFlag with
  | false =>
    rcases writeCmd_cases s v with hw | hw <;> rw [hw]
    · exact .inr ⟨Bool.noConfusion, rfl⟩
    · exact .inl rfl
  | true =>
    obtain ⟨e, hop⟩ := s.op_of_errFlag herr
    by_cases hv : v = encode .clrerr
    · subst hv
      rw [writeCmd_clrerr_of_error hop, readyFlag_of_error hop]
      exact .inr ⟨fun _ => rfl, rfl⟩
    · rw [writeCmd_other_of_error hop hv]
      exact .inl rfl

/-- Of the registers only CMD and CTRL's soft-reset bit act on the operating state (10_state.md R25, R38). -/
theorem writeReg_op {reg : Reg} {v : Word} (hcmd : reg ≠ .cmd) (hreset : reg = .ctrl → v.getLsbD 0 = false)
    (s : State) : (s.writeReg reg v).op = s.op := by
  cases reg with
  | cmd => exact absurd rfl hcmd
  | ctrl =>
    rw [State.writeReg, if_neg (Bool.eq_false_iff.1 (hreset rfl))]
  | memData =>
    change (s.writeMemData v).op = s.op
    rw [s.writeMemData_eq v]
  | _ => rfl

theorem regAt_eq_some {addr : BitVec 6} {reg : Reg} (h : regAt addr = some reg) : addr = regAddr reg :=
  (by decide : ∀ a : BitVec 6, ∀ r ∈ regAt a, a = regAddr r) addr reg h

theorem busWrite_opStep {s : State} {addr : BitVec 6} {v : Word} {rest : List Event}
    (hev : s.events = .write addr v :: rest) : OpStep s ((s.withEvents rest).busWrite addr v) := by
  have hhead : s.events.head? = some (.write addr v) := by rw [hev]; rfl
  unfold State.busWrite
  split
  · next reg hreg =>
    obtain rfl := regAt_eq_some hreg
    by_cases hcmd : reg = .cmd
    · subst hcmd
      rcases writeCmd_op_cases (s.withEvents rest) v with hop | ⟨hword, hop⟩
      · exact .kept hop
      · exact .accepted v ⟨hhead, hword, hop⟩
    by_cases hreset : reg = .ctrl ∧ v.getLsbD 0 = true
    · obtain ⟨rfl, hbit⟩ := hreset
      refine .reset (.inr ⟨v, hhead, hbit⟩) ?_
      rw [State.writeReg, if_pos hbit, softReset_op]
    · exact .kept (writeReg_op hcmd (fun hctrl => by simpa [hctrl] using hreset) (s.withEvents rest))
  · exact .kept rfl

theorem step_opStep {s t : State} (h : step s = .next t) : OpStep s t := by
  cases hev : s.events with
  | nil =>
    have hsame : s.withEvents s.events.tail = s := by
      rw [hev, List.tail_nil, ← hev]
      rfl
    rw [step_of_no_event hev] at h
    exact engineTurn_opStep (by rwa [hsame])
  | cons ev rest =>
    cases ev with
    | engine =>
      rw [step_engine hev] at h
      exact engineTurn_opStep (by rwa [hev])
    | write addr v =>
      rw [step_write hev] at h
      cases h
      exact busWrite_opStep hev
    | read addr =>
      rw [step_read hev, State.busRead_eq] at h
      cases h
      exact .kept rfl
    | rstn =>
      simp only [step, hev] at h
      cases h
      exact .reset (.inl (by rw [hev]; rfl)) rfl

/-! How ERROR is entered and left (R236 to R238). -/

theorem State.complete_op_ne_error (s : State) (r : Bool) (e : ErrCode) : (s.complete r).op ≠ .error e := by
  cases r <;> exact OpState.noConfusion

/-- A command carried out ends in ERROR by raising, which is all it then does (R237). -/
theorem CarriedOut.eq_raise {s t : State} {e : ErrCode} (h : CarriedOut s t) (hop : t.op = .error e) :
    t = s.raise e := by
  cases h with
  | raised e' =>
    cases hop
    rfl
  | kept u _ => exact absurd hop (u.complete_op_ne_error _ e)
  | started _ => exact absurd hop (s.startRun.complete_op_ne_error true e)
  | ended => exact absurd hop (s.discardRun.complete_op_ne_error false e)

/-- STATUS in ERROR: the code of R233 in bits 15:8, ERR in bit 2 (10_state.md R26). -/
theorem status_of_error {s : State} {e : ErrCode} (h : s.op = .error e) :
    s.status = (e.code.setWidth 32) <<< 8 ||| 4#32 := by
  rw [status_of_op h]
  cases e <;> decide

/-- Settles O8: of the four things a step can do to the operating state, only the engine's turn reaches ERROR. -/
theorem raisedErrorsChangeNoData : Obligations.RaisedErrorsChangeNoData := by
  intro s t e herr hstep hop
  refine ⟨?_, status_of_error hop⟩
  cases step_opStep hstep with
  | kept hkept => simp [State.errFlag, hkept.symm.trans hop] at herr
  | accepted v h => cases h.op.symm.trans hop
  | reset _ hidle => cases hidle.symm.trans hop
  | turn _ h => exact h.eq_raise hop

/-- Settles O9: of the four things a step can do to the operating state, the engine's turn needs BUSY, and the other
three are the clauses. -/
theorem errorStaysUntilClrerrOrReset : Obligations.ErrorStaysUntilClrerrOrReset := by
  intro s t e hop hstep
  cases step_opStep hstep with
  | kept hkept => exact .inl (hkept.trans hop)
  | accepted v h =>
    obtain ⟨hnext, hword, hbusy⟩ := h
    obtain rfl := hword (by simp [State.errFlag, hop])
    rw [readyFlag_of_error hop] at hbusy
    exact .inr (.inl ⟨hnext, hbusy⟩)
  | reset hnext hidle =>
    rcases hnext with hrstn | ⟨v, hctrl, hbit⟩
    · exact .inr (.inr (.inl ⟨hrstn, hidle⟩))
    · exact .inr (.inr (.inr ⟨v, hctrl, hbit, hidle⟩))
  | turn hbusy _ => simp [State.busyFlag, hop] at hbusy

end Sys2Proof.Machine
end

section
/-! The resets (70_reset_and_hazards.md R260, R262, R263): what soft and hardware reset share on the registers, and
which contents of the memories each of them loses. -/

namespace Sys2Proof.Machine

/-! The events that reset the machine. -/

theorem step_rstn {s : State} {rest : List Event} (h : s.events = .rstn :: rest) :
    step s = .next (s.withEvents rest).hardReset := by
  simp only [step, h]

/-- Of CTRL only the soft-reset bit acts (10_state.md R38). -/
theorem step_write_ctrl {s : State} {v : Word} {rest : List Event} (h : s.events = .write (regAddr .ctrl) v :: rest) :
    step s = .next (if v.getLsbD 0 then (s.withEvents rest).softReset else s.withEvents rest) := by
  rw [step_write h, State.busWrite, regAt_regAddr]
  rfl

/-! What a reset does to the registers (10_state.md R60). -/

/-- Beside the registers the machine holds its parameters, the memories, the bus output, the events and the draw
counter; resetting the registers keeps these. -/
theorem State.resetRegisters_eq (s : State) :
    s.resetRegisters = { State.reset with
      params := s.params, mem := s.mem, rdata := s.rdata, events := s.events, draws := s.draws } := rfl

theorem State.softReset_of_not_busy {s : State} (h : s.busyFlag = false) : s.softReset = s.resetRegisters := by
  simp [State.softReset, h]

theorem State.softReset_of_busy {s : State} (h : s.busyFlag = true) :
    s.softReset = s.loseBuffers.resetRegisters := by
  simp [State.softReset, h]

/-- Soft reset puts every register at reset, interrupted command or not. -/
theorem State.softReset_eq (s : State) :
    s.softReset = { State.reset with
      params := s.params, mem := s.softReset.mem, rdata := s.rdata, events := s.events
      draws := s.softReset.draws } := by
  cases h : s.busyFlag with
  | false =>
    rw [softReset_of_not_busy h]
    exact s.resetRegisters_eq
  | true =>
    rw [softReset_of_busy h, s.loseBuffers_eq]
    exact State.resetRegisters_eq _

theorem State.hardReset_eq (s : State) :
    s.hardReset = { State.reset with
      params := s.params, mem := .unspecified s.draws, events := s.events, draws := s.draws + 1 } := rfl

/-! What a reset does to the memories. -/

theorem Memory.get_unspecified (n : Nat) (id : SpaceId) : (Memory.unspecified n).get id = Space.unspecified n := by
  cases id <;> rfl

theorem Memory.get_loseSpace (m : Memory) (id : SpaceId) (n : Nat) (jd : SpaceId) :
    (m.loseSpace id n).get jd = if jd = id then Space.unspecified n else m.get jd :=
  m.get_set _ id jd

/-- An interrupted command costs the engine's four buffers their contents and no other space (R263). -/
theorem State.loseBuffers_get (s : State) (id : SpaceId) :
    s.loseBuffers.mem.get id =
      if id ∈ [SpaceId.eb, .print, .preview, .tally] then Space.unspecified s.draws else s.mem.get id := by
  simp only [State.loseBuffers, State.nextDraw, State.withMem, Memory.get_loseSpace]
  cases id <;> rfl

/-! The statements. -/

/-- Settles O54: the registers are reset either way, and the memories are lost with the engine's buffers only. -/
theorem softResetKeepsTheMemories : Obligations.SoftResetKeepsTheMemories := by
  intro s v rest hev
  have hstep := step_write_ctrl hev
  refine ⟨fun hbit => ?_, fun hbit => ?_⟩
  · rw [hstep, hbit]
    rfl
  · rw [if_pos hbit] at hstep
    refine ⟨_, hstep, State.softReset_eq _, fun hidle => ?_, fun hbusy => ?_⟩
    · rw [State.softReset_of_not_busy (s := s.withEvents rest) hidle]
      exact ⟨rfl, rfl⟩
    · have hmem : (s.withEvents rest).softReset.mem = (s.withEvents rest).loseBuffers.mem := by
        rw [State.softReset_of_busy (s := s.withEvents rest) hbusy]
        rfl
      refine ⟨fun id hid => ?_, fun id hid a => ?_⟩
      · have hkept : id ∉ [SpaceId.eb, .print, .preview, .tally] :=
          (by decide : ∀ jd ∈ [SpaceId.dot, .errtab, .pvlut, .raster], jd ∉ [.eb, .print, .preview, .tally]) id hid
        rw [hmem, State.loseBuffers_get, if_neg hkept, State.withEvents_mem]
      · rw [hmem, State.loseBuffers_get, if_pos hid, Space.readByte_unspecified, State.withEvents_draws]

/-- Settles O55: every space is unspecified afterwards, so each byte is the free value of its address. -/
theorem hardwareResetLosesTheMemories : Obligations.HardwareResetLosesTheMemories := by
  intro s rest hev
  refine ⟨_, step_rstn hev, State.hardReset_eq _, fun id a => ?_⟩
  rw [State.hardReset_eq, Memory.get_unspecified, Space.readByte_unspecified, State.withEvents_draws]

end Sys2Proof.Machine
end
